-- ==== Sys2Proof/Word.lean ====
section
/-! DEFINITION. The word types of the RGB565-HSV block (00_scope.md R8). -/

namespace Sys2Proof

/-- One byte; also one HSV component or one expanded channel (R8: HSV components are 8 bits each). -/
abbrev Byte := BitVec 8

/-- An RGB565 pixel (R8, R12: 16 bits). -/
abbrev Pixel := BitVec 16

/-- A register or a command word (R8: 32 bits). -/
abbrev Word := BitVec 32

/-- A rule index (R8: the rule index field has 4 bits). -/
abbrev RuleIdx := BitVec 4

end Sys2Proof
end

