-- ==== Sys2Proof/Config.lean ====
section
/-! DEFINITION. The parameters of 00_scope.md R7 and the free values of the model. -/

namespace Sys2Proof

/-- `LUT_MODE`: which channel-expansion tables the ROM holds (40_conversion.md R101). -/
inductive LutMode where
  | round
  | replicate
  deriving DecidableEq, Repr

/-- `PIXEL_BYTE_ORDER`: the byte order of a pixel in buffer memory (20_memory.md R62). -/
inductive ByteOrder where
  | little
  | big
  deriving DecidableEq, Repr

/-- A run of `size` admitted byte addresses from `base` on; `MemAdmit` is a list of them (log 14). -/
structure Region where
  base : Nat
  size : Nat
  deriving DecidableEq, Repr

/-- The parameters of R7. `regBases` lists `REG_BASE` of every unit, so its length is `NUM_UNITS`;
`ADDR_WIDTH` has the one legal value 32 and needs no field. Which values are legal is
`Config.legal` (Machine/Platform.lean).
DESIGN CHOICE (log 22): all units share one `maxRules`, one `lutMode` and one `byteOrder`; R7 and 60_exceptions.md
R222 do not say whether units may differ in them. -/
structure Config where
  maxRules  : Nat
  lutMode   : LutMode
  byteOrder : ByteOrder
  admitted  : List Region
  regBases  : List Nat
  deriving DecidableEq, Repr

/-- FREE VALUE (log 7): the byte that buffer memory holds at an address nothing has written
(70_reset_and_hazards.md R230(c); 93: "any value"). -/
opaque Config.platformByte : Nat → Byte

/-- FREE VALUE (log 8): what the byte at an address holds after a host write that raced with a
running command (20_memory.md R71); the first argument is `State.draws`. -/
opaque Config.raceByte : Nat → Nat → Byte

/-- FREE VALUE (log 10): whether a host read of the active range sees the new value of the pixel at
an address (20_memory.md R71: a draw per pixel); the first argument is `State.draws`. -/
opaque Config.readsNew : Nat → Nat → Bool

end Sys2Proof
end

