-- ==== Sys2Proof/Machine/State.lean ====
section
/-! DEFINITION. The state of the platform: the units of the block (10_state.md R42), buffer memory
(20_memory.md R60), the parameters, the recorded model faults, and the model's own fields. -/

namespace Sys2Proof.Machine

/-- An HSV triple, 8 bits each (R12, R14). -/
structure Hsv where
  h : Byte
  s : Byte
  v : Byte
  deriving DecidableEq, Repr

/-- The fields of `STATUS` (10_state.md R28, R29, R42). -/
structure Status where
  busy    : Bool
  done    : Bool
  err     : Bool
  wign    : Bool
  errCode : BitVec 4
  matched : Bool
  hit     : BitVec 4
  deriving DecidableEq, Repr

/-- One rule slot: the register pair `RULE_A[i]`, `RULE_B[i]` (10_state.md R34, R42). `satShift` holds
the bits of the signed field. -/
structure RuleSlot where
  target   : Byte
  hueShift : Byte
  radius   : Byte
  satShift : BitVec 16
  deriving DecidableEq, Repr

/-- Buffer memory: (address, byte) pairs with rising addresses. An address that is not listed has
not been written; what it reads as is the free value `Config.platformByte` (log 7). -/
abbrev Memory := List Host.Cell

/-- The complete state of one unit (10_state.md R42), and `before`. -/
structure Block where
  cmd        : Word
  status     : Status
  pixIn      : Pixel
  hsvIn      : Hsv
  pixOut     : Pixel
  hsvOut     : Hsv
  bufBase    : Word
  bufLen     : Word
  gHueShift  : Byte
  gSatShift  : BitVec 16
  ruleCount  : Byte
  /-- `RULE_A` and `RULE_B`: `MAX_RULES` slots. -/
  rules      : List RuleSlot
  matchCount : Word
  progress   : Word
  /-- The model's own (log 10): buffer memory when the running buffer command was accepted. The block
  does not hold it; only the free draw of 20_memory.md R71 reads it. -/
  before     : Memory
  deriving DecidableEq, Repr

/-- The width of a host access to the register space (10_state.md R22). -/
inductive AccessWidth where
  | b8
  | b16
  | b32
  deriving DecidableEq, Repr

/-- One indivisible transition of an agent (00_scope.md R13, 60_exceptions.md R211). -/
inductive Event where
  /-- A host write of `value` to the register space (10_state.md R22; `wr` of 30_encoding.md R88). -/
  | regWrite (addr : Nat) (width : AccessWidth) (value : Word)
  /-- A host read of the register space (`rd`). -/
  | regRead (addr : Nat) (width : AccessWidth)
  /-- A host write of a pixel to buffer memory (`mwr`). -/
  | memWrite (addr : Nat) (p : Pixel)
  /-- A host write of one byte to buffer memory (log 12). -/
  | memWriteByte (addr : Nat) (b : Byte)
  /-- A host read of a pixel of buffer memory (`mrd`). -/
  | memRead (addr : Nat)
  /-- A host read of one byte of buffer memory (log 12). -/
  | memReadByte (addr : Nat)
  /-- The engine of unit `k` is scheduled (43_buffer.md R174). -/
  | engine (k : Nat)
  /-- Reset of unit `k` (70_reset_and_hazards.md R230). -/
  | reset (k : Nat)
  /-- The host polls `STATUS` of unit `k` until BUSY = 0 (`wait` of 30_encoding.md R89; log 13). -/
  | wait (k : Nat)
  deriving DecidableEq, Repr

/-- Everything the spec gives the platform, as plain data, and the model's own fields. -/
structure State where
  /-- The parameters of 00_scope.md R7, fixed for the life of the configuration (R230(e)), and the same for
  every unit (DESIGN CHOICE, log 22), but for each unit's own `REG_BASE`. -/
  cfg         : Config
  /-- The units, `NUM_UNITS` of them (60_exceptions.md R222). -/
  units       : List Block
  /-- Buffer memory, shared by the host and the units (20_memory.md R60). -/
  mem         : Memory
  /-- `HOST_RACE` has been recorded (60_exceptions.md R212); sticky. -/
  hostRace    : Bool
  /-- `UNIT_OVERLAP` has been recorded (R212, R222); sticky. -/
  unitOverlap : Bool
  /-- The model's own (log 3): the transitions that are still to happen, first one first. -/
  agenda      : List Event
  /-- The model's own (log 5): the unit that the last register access addressed. -/
  sel         : Nat
  /-- The model's own (log 6): what the last host read returned. -/
  hostData    : Option Word
  /-- The model's own (log 10): makes each draw of a free value fresh. -/
  draws       : Nat
  deriving DecidableEq, Repr

/-- Why the machine stops. Rejections of commands are no faults: they are next states
(60_exceptions.md R200), and `HOST_RACE` and `UNIT_OVERLAP` are recorded in `State` (R212). -/
inductive Fault where
  /-- Raised by an engine step that has no meaning: its pixel is at an address `MemAdmit` refuses
  (93: `stuck`), or `CMD` holds no buffer command. No run reaches it (60_exceptions.md R207, R209);
  only states outside the invariant do. Safe. -/
  | engineStuck
  /-- Raised by a host access to buffer memory at an address past 2^32 - 1 (20_memory.md R60). Safe. -/
  | noSuchAddress
  deriving DecidableEq, Repr

/-- What the model gives no meaning to. -/
inductive Refusal where
  /-- An instruction without a meaning yet; raised by `exec` alone. Safe. -/
  | notModelled (mnemonic : String)
  /-- Raised by a register access that is not an aligned 32-bit access to the block of some unit
  (10_state.md R22). Safe. -/
  | badAccess
  /-- Raised by every step when a parameter is outside its legal values (60_exceptions.md R212). Safe. -/
  | badParameter
  /-- Raised by a host access to a byte of buffer memory that `MemAdmit` refuses: the spec does not
  say what stands there (20_memory.md R64; log 11). Safe. -/
  | memNotAdmitted
  /-- Raised when the agenda or `sel` names a unit the platform does not have. Safe. -/
  | noSuchUnit
  deriving DecidableEq, Repr

/-- `STATUS` after reset: 0x00000000 (70_reset_and_hazards.md R230(a)). -/
def Status.reset : Status :=
  { busy := false, done := false, err := false, wign := false, errCode := 0, matched := false, hit := 0 }

/-- (0, 0, 0). -/
def Hsv.zero : Hsv := { h := 0, s := 0, v := 0 }

/-- A rule slot after reset (R230(a)). -/
def RuleSlot.zero : RuleSlot := { target := 0, hueShift := 0, radius := 0, satShift := 0 }

/-- The registers of a unit after reset: all 0 (70_reset_and_hazards.md R230(a), 10_state.md R28). -/
def Block.reset (maxRules : Nat) : Block :=
  { cmd := 0, status := Status.reset, pixIn := 0, hsvIn := Hsv.zero, pixOut := 0, hsvOut := Hsv.zero,
    bufBase := 0, bufLen := 0, gHueShift := 0, gSatShift := 0, ruleCount := 0,
    rules := List.replicate maxRules RuleSlot.zero, matchCount := 0, progress := 0, before := [] }

/-- The parameters that `State.reset` starts from: the defaults of 00_scope.md R7 and, for the OPEN
ones, values of the model (DESIGN CHOICE, log 2): one unit at 0x40000000, and every address of buffer
memory admitted but those of its register block (R64). -/
def resetConfig : Config :=
  { maxRules := 8, lutMode := .round, byteOrder := .little,
    admitted := [{ base := 0, size := 0x40000000 }, { base := 0x40000100, size := 0xBFFFFF00 }],
    regBases := [0x40000000] }

/-- The platform after power-on (R230): every unit reset, nothing written to buffer memory, no fault
recorded, nothing yet to happen. -/
def State.reset : State :=
  { cfg := resetConfig, units := [Block.reset resetConfig.maxRules], mem := [], hostRace := false,
    unitOverlap := false, agenda := [], sel := 0, hostData := none, draws := 0 }

end Sys2Proof.Machine
end

