-- ==== Sys2Proof/Machine/Colour.lean ====
section
/-! DEFINITION. The numerics: channel expansion and the two converters (40_conversion.md), the hue-band
predicate (41_predicate.md R130), the shift and the adjustment functions (42_pixel_adjust.md R141 to
R145). Intermediate values are unbounded integers (00_scope.md R9) and are narrowed at the end. -/

namespace Sys2Proof.Machine

/-- `LUT5[v]` (40_conversion.md R101). -/
def lut5 (m : LutMode) (v : Nat) : Nat :=
  match m with
  | .round => (255 * v + 15) / 31
  | .replicate => (v <<< 3) ||| (v >>> 2)

/-- `LUT6[v]` (R101). -/
def lut6 (m : LutMode) (v : Nat) : Nat :=
  match m with
  | .round => (255 * v + 31) / 63
  | .replicate => (v <<< 2) ||| (v >>> 4)

/-- The red channel of a pixel, bits 15:11 (R100). -/
def red5 (p : Pixel) : BitVec 5 := p.extractLsb' 11 5

/-- The green channel of a pixel, bits 10:5 (R100). -/
def green6 (p : Pixel) : BitVec 6 := p.extractLsb' 5 6

/-- The blue channel of a pixel, bits 4:0 (R100). -/
def blue5 (p : Pixel) : BitVec 5 := p.extractLsb' 0 5

/-- Three channels as integers. -/
structure Rgb where
  r : Nat
  g : Nat
  b : Nat
  deriving DecidableEq, Repr

/-- `expand(p)` (R103). -/
def expand (m : LutMode) (p : Pixel) : Rgb :=
  { r := lut5 m (red5 p).toNat, g := lut6 m (green6 p).toNat, b := lut5 m (blue5 p).toNat }

/-- `max3(r, g, b)` (00_scope.md R10). -/
def Rgb.mx (c : Rgb) : Nat := max c.r (max c.g c.b)

/-- `min3(r, g, b)` (00_scope.md R10). -/
def Rgb.mn (c : Rgb) : Nat := min c.r (min c.g c.b)

/-- The hue before it is folded into 0..255: sector offset, plus 43 times a channel difference
divided by `d` toward zero (40_conversion.md R104, R106); red is tested first, then green (R105). -/
def Rgb.hue (c : Rgb) : Int :=
  let d : Int := c.mx - c.mn
  if c.mx = c.r then 0 + Int.tdiv (43 * ((c.g : Int) - c.b)) d
  else if c.mx = c.g then 85 + Int.tdiv (43 * ((c.b : Int) - c.r)) d
  else 171 + Int.tdiv (43 * ((c.r : Int) - c.g)) d

/-- The HSV triple of three expanded channels (R104). -/
def Rgb.toHsv (c : Rgb) : Hsv :=
  let d := c.mx - c.mn
  if d = 0 then { h := 0, s := 0, v := BitVec.ofNat 8 c.mx }
  else { h := BitVec.ofInt 8 c.hue, s := BitVec.ofNat 8 (d * 255 / c.mx), v := BitVec.ofNat 8 c.mx }

/-- `rgb565_to_hsv(p)` (R104). -/
def rgb565ToHsv (m : LutMode) (p : Pixel) : Hsv := (expand m p).toHsv

/-- `pack(r, g, b)` (R119): the top 5, 6 and 5 bits of three 8-bit channels. -/
def pack (c : Rgb) : Pixel :=
  BitVec.ofNat 16 (((c.r &&& 0xF8) <<< 8) ||| ((c.g &&& 0xFC) <<< 3) ||| (c.b >>> 3))

/-- The channels of an HSV triple with `s ≠ 0` (R115, R117 to R119). -/
def sectorRgb (h s v : Nat) : Rgb :=
  let region := h / 43
  let remainder := (h - 43 * region) * 6
  let p := (v * (255 - s)) >>> 8
  let q := (v * (255 - ((s * remainder) >>> 8))) >>> 8
  let t := (v * (255 - ((s * (255 - remainder)) >>> 8))) >>> 8
  match region with
  | 0 => { r := v, g := t, b := p }
  | 1 => { r := q, g := v, b := p }
  | 2 => { r := p, g := v, b := t }
  | 3 => { r := p, g := q, b := v }
  | 4 => { r := t, g := p, b := v }
  | _ => { r := v, g := p, b := q }

/-- `hsv_to_rgb565(h, s, v)` (R115); the gray branch is R116. -/
def hsvToRgb565 (x : Hsv) : Pixel :=
  if x.s = 0 then pack { r := x.v.toNat, g := x.v.toNat, b := x.v.toNat }
  else pack (sectorRgb x.h.toNat x.s.toNat x.v.toNat)

/-- `in_band(hue, target, radius)` (41_predicate.md R130). -/
def inBand (hue target radius : Byte) : Bool :=
  let d := ((hue.toNat : Int) - target.toNat).natAbs
  d ≤ radius.toNat || 256 - d ≤ radius.toNat

/-- `clamp(x, lo, hi)` (00_scope.md R10). -/
def clamp (x lo hi : Int) : Int := if x < lo then lo else if x > hi then hi else x

/-- `shift_hsv` (42_pixel_adjust.md R141): the hue modulo 256 (R142), the saturation clamped (R143). -/
def shiftHsv (x : Hsv) (hueShift : Byte) (satShift : Int) : Hsv :=
  { h := BitVec.ofNat 8 (x.h.toNat + hueShift.toNat),
    s := BitVec.ofInt 8 (clamp (x.s.toNat + satShift) 0 255),
    v := x.v }

/-- `reencode` (R144). -/
def reencode (m : LutMode) (p : Pixel) (hueShift : Byte) (satShift : Int) : Pixel :=
  hsvToRgb565 (shiftHsv (rgb565ToHsv m p) hueShift satShift)

/-- What an adjustment function returns: `(matched, hit, p')` (R145). -/
structure Adjusted where
  matched : Bool
  hit     : RuleIdx
  pixel   : Pixel
  deriving DecidableEq, Repr

/-- `adjust_global` (R145). -/
def adjustGlobal (m : LutMode) (p : Pixel) (hueShift : Byte) (satShift : Int) : Adjusted :=
  { matched := true, hit := 0, pixel := reencode m p hueShift satShift }

/-- The hue of `p` is in the band of a rule (R145). -/
def RuleSlot.covers (m : LutMode) (r : RuleSlot) (p : Pixel) : Bool :=
  inBand (rgb565ToHsv m p).h r.target r.radius

/-- `p` re-encoded with the shifts of a rule; SAT_SHIFT is signed (10_state.md R34). -/
def RuleSlot.apply (m : LutMode) (r : RuleSlot) (p : Pixel) : Pixel :=
  reencode m p r.hueShift r.satShift.toInt

/-- `adjust_single` (R145). -/
def adjustSingle (m : LutMode) (p : Pixel) (r : RuleSlot) : Adjusted :=
  if r.covers m p then { matched := true, hit := 0, pixel := r.apply m p }
  else { matched := false, hit := 0, pixel := p }

/-- The first of the rules from index `k` on that covers `p`, with its index. -/
def firstMatch (m : LutMode) (p : Pixel) : Nat → List RuleSlot → Option (Nat × RuleSlot)
  | _, [] => none
  | k, r :: rs => if r.covers m p then some (k, r) else firstMatch m p (k + 1) rs

/-- `adjust_multi` (R145, R146). -/
def adjustMulti (m : LutMode) (p : Pixel) (rules : List RuleSlot) : Adjusted :=
  match firstMatch m p 0 rules with
  | some (k, r) => { matched := true, hit := BitVec.ofNat 4 k, pixel := r.apply m p }
  | none => { matched := false, hit := 0, pixel := p }

end Sys2Proof.Machine
end

