-- ==== Sys2Proof/Syntax.lean ====
section
/-! DEFINITION. The ten commands of 30_encoding.md R82, one constructor per row of
opcode_table.json. -/

namespace Sys2Proof

/-- A command of the block. The only operand a command word carries is `RIDX` (R81, R85). -/
inductive Instr where
  /-- `NOP`, 42_pixel_adjust.md R154. -/
  | nop
  /-- `RGB2HSV`, 40_conversion.md R110. -/
  | rgb2hsv
  /-- `HSV2RGB`, 40_conversion.md R120. -/
  | hsv2rgb
  /-- `INBAND r<i>`, 41_predicate.md R133. -/
  | inband (i : RuleIdx)
  /-- `PXSHIFT`, 42_pixel_adjust.md R150. -/
  | pxshift
  /-- `PXBAND r<i>`, 42_pixel_adjust.md R151. -/
  | pxband (i : RuleIdx)
  /-- `PXMULTI`, 42_pixel_adjust.md R152. -/
  | pxmulti
  /-- `BUFSHIFT`, 43_buffer.md R180. -/
  | bufshift
  /-- `BUFBAND r<i>`, 43_buffer.md R181. -/
  | bufband (i : RuleIdx)
  /-- `BUFMULTI`, 43_buffer.md R182. -/
  | bufmulti
  deriving DecidableEq, Repr

end Sys2Proof
end

