-- ==== Sys2Proof/WellFormed.lean ====
section
/-! DEFINITION. Which commands are well formed on a block with `MAX_RULES` rule slots. -/

namespace Sys2Proof

/-- 30_encoding.md R84: the rule slot that INBAND, PXBAND and BUFBAND name must exist. -/
def Instr.wf (maxRules : Nat) : Instr → Bool
  | .inband i => i.toNat < maxRules
  | .pxband i => i.toNat < maxRules
  | .bufband i => i.toNat < maxRules
  | .nop => true
  | .rgb2hsv => true
  | .hsv2rgb => true
  | .pxshift => true
  | .pxmulti => true
  | .bufshift => true
  | .bufmulti => true

end Sys2Proof
end

