-- ==== Sys2Proof/Decode.lean ====
section
/-! DEFINITION. Decoding a command word (30_encoding.md R86) and encoding a command (R87). -/

namespace Sys2Proof

/-- The causes of a rejection (60_exceptions.md R202), in the order in which they are checked
(R205). The first three are found by decoding, the others by issue (R203). -/
inductive CmdError where
  | illegalOp
  | reservedBits
  | ruleIndex
  | ruleCount
  | align
  | range
  deriving DecidableEq, Repr

/-- What `STATUS.ERRCODE` records for a rejection (R202). -/
def CmdError.code : CmdError → BitVec 4
  | .illegalOp => 1
  | .reservedBits => 2
  | .ruleIndex => 3
  | .ruleCount => 4
  | .align => 5
  | .range => 6

/-- `OP`, bits 3:0 of a command word (R81). -/
def opField (w : Word) : BitVec 4 := w.extractLsb' 0 4

/-- `RIDX`, bits 7:4 of a command word (R81). -/
def ridxField (w : Word) : RuleIdx := w.extractLsb' 4 4

/-- Bits 31:8 of a command word, which must be 0 (R81, R83). -/
def reservedField (w : Word) : BitVec 24 := w.extractLsb' 8 24

/-- The command an opcode of the map R82 stands for, with the rule index where it uses one;
none for the reserved opcodes 0x7 and 0xB to 0xF. -/
def opcodeMap (op : BitVec 4) (i : RuleIdx) : Option Instr :=
  match op.toNat with
  | 0 => some .nop
  | 1 => some .rgb2hsv
  | 2 => some .hsv2rgb
  | 3 => some (.inband i)
  | 4 => some .pxshift
  | 5 => some (.pxband i)
  | 6 => some .pxmulti
  | 8 => some .bufshift
  | 9 => some (.bufband i)
  | 10 => some .bufmulti
  | _ => none

/-- Whether a command uses `RIDX` (R82). -/
def Instr.usesRidx : Instr → Bool
  | .inband _ => true
  | .pxband _ => true
  | .bufband _ => true
  | .nop => false
  | .rgb2hsv => false
  | .hsv2rgb => false
  | .pxshift => false
  | .pxmulti => false
  | .bufshift => false
  | .bufmulti => false

/-- `decode(w)` of R86, total on all words; the checks run in the order the rule gives. -/
def decode (maxRules : Nat) (w : Word) : Except CmdError Instr :=
  match opcodeMap (opField w) (ridxField w) with
  | none => .error .illegalOp
  | some ins =>
    if reservedField w ≠ 0 then .error .reservedBits
    else if !ins.usesRidx && ridxField w != 0 then .error .reservedBits
    else if !ins.wf maxRules then .error .ruleIndex
    else .ok ins

/-- The opcode of a command (R82). -/
def Instr.opcode : Instr → BitVec 4
  | .nop => 0x0
  | .rgb2hsv => 0x1
  | .hsv2rgb => 0x2
  | .inband _ => 0x3
  | .pxshift => 0x4
  | .pxband _ => 0x5
  | .pxmulti => 0x6
  | .bufshift => 0x8
  | .bufband _ => 0x9
  | .bufmulti => 0xA

/-- The rule index a command carries, 0 where it has none (R81: must be 0 for every other opcode). -/
def Instr.ridx : Instr → RuleIdx
  | .inband i => i
  | .pxband i => i
  | .bufband i => i
  | .nop => 0
  | .rgb2hsv => 0
  | .hsv2rgb => 0
  | .pxshift => 0
  | .pxmulti => 0
  | .bufshift => 0
  | .bufmulti => 0

/-- The one legal word of a command (R87). -/
def encode (i : Instr) : Word := BitVec.ofNat 32 (i.opcode.toNat + 16 * i.ridx.toNat)

/-- The command read from a word given by its bits as opcode_table.json numbers them, on a block
with the default `MAX_RULES = 8` (R7, R86); bits from `nbits` on are 0, and a command is one
32-bit word (R80). -/
def decodeTableWord (nbits w : Nat) : Option Instr :=
  if nbits ≤ 32 then
    match decode 8 (BitVec.ofNat 32 (w % 2 ^ nbits)) with
    | .ok i => some i
    | .error _ => none
  else none

end Sys2Proof
end

