-- ==== Sys2Proof/Machine/Platform.lean ====
section
/-! DEFINITION. What the parameters mean: legal values (00_scope.md R7), `MemAdmit` over an address
and over a range (20_memory.md R64, R66), and which unit a register access addresses (10_state.md R20,
R22). -/

namespace Sys2Proof

/-- The size of buffer memory, `2^ADDR_WIDTH` bytes (20_memory.md R60). -/
def memSize : Nat := 2 ^ 32

/-- The first address after a region. -/
def Region.stop (r : Region) : Nat := r.base + r.size

/-- `MemAdmit(a)` (20_memory.md R64). -/
def Config.memAdmit (c : Config) (a : Nat) : Bool :=
  c.admitted.any fun r => r.base ≤ a && a < r.stop

/-- Every address of `lo .. hi - 1` is admitted. Checked at the ends of regions only, because a range
may hold 2^32 addresses: where admission first fails, a region ends. -/
def Config.rangeAdmit (c : Config) (lo hi : Nat) : Bool :=
  hi ≤ lo || (c.memAdmit lo && c.admitted.all fun r => !(lo < r.stop && r.stop < hi) || c.memAdmit r.stop)

/-- A region of admitted addresses lies in buffer memory and off a unit's register block (R64). -/
def Region.offBlock (r : Region) (regBase : Nat) : Bool :=
  r.size == 0 || r.stop ≤ regBase || regBase + 256 ≤ r.base

/-- The register blocks are aligned and each unit has its own (00_scope.md R7, 60_exceptions.md R222). -/
def regBasesLegal : List Nat → Bool
  | [] => true
  | b :: bs => b % 256 == 0 && !bs.contains b && regBasesLegal bs

/-- The parameters have legal values (00_scope.md R7, 20_memory.md R64). -/
def Config.legal (c : Config) : Bool :=
  1 ≤ c.maxRules && c.maxRules ≤ 16 && 1 ≤ c.regBases.length && regBasesLegal c.regBases &&
  c.admitted.all fun r => r.stop ≤ memSize && c.regBases.all r.offBlock

/-- Which of the units from number `k` on, with these register blocks, a host address falls in, and
the offset there. -/
def findBlock : List Nat → Nat → Nat → Option (Nat × Nat)
  | [], _, _ => none
  | b :: bs, k, a => if b ≤ a ∧ a < b + 256 then some (k, a - b) else findBlock bs (k + 1) a

/-- The unit and the byte offset a register access addresses; none for an access that is not an
aligned 32-bit access to some unit's register block (10_state.md R22). -/
def Config.route (c : Config) (addr : Nat) : Machine.AccessWidth → Option (Nat × Nat)
  | .b8 => none
  | .b16 => none
  | .b32 =>
    match findBlock c.regBases 0 addr with
    | none => none
    | some (k, off) => if off % 4 = 0 then some (k, off) else none

end Sys2Proof
end

