-- ==== Sys2Proof/Machine/Ops.lean ====
section
/-! DEFINITION. The named operations: over memory (20_memory.md R63), over the units, and the two sides
of an error: rejecting a command (60_exceptions.md R204) and acknowledging it (R208, 10_state.md R30). -/

namespace Sys2Proof.Machine

/-- The byte a memory lists at an address. -/
def Memory.read : Memory → Nat → Option Byte
  | [], _ => none
  | c :: m, a => if c.1 = a then some c.2 else Memory.read m a

/-- Memory after a byte is written; the addresses stay rising. -/
def Memory.write : Memory → Nat → Byte → Memory
  | [], a, b => [(a, b)]
  | c :: m, a, b =>
    if a < c.1 then (a, b) :: c :: m
    else if a = c.1 then (a, b) :: m
    else c :: Memory.write m a b

/-- The canonical form: rising addresses, all of them in buffer memory. (An unlisted address holds no
written byte, so no entry can equal what it reads as.) -/
abbrev Memory.wf (m : Memory) : Prop :=
  m.Pairwise (fun c d => c.1 < d.1) ∧ ∀ c ∈ m, c.1 < memSize

/-- The byte at an address: the one written last, or the platform's (log 7). -/
def Memory.byte (m : Memory) (a : Nat) : Byte := (Memory.read m a).getD (Config.platformByte a)

/-- The pixel of the two bytes at the lower and at the higher address (20_memory.md R62). -/
def joinBytes (o : ByteOrder) (lower higher : Byte) : Pixel :=
  match o with
  | .little => BitVec.ofNat 16 (lower.toNat + 256 * higher.toNat)
  | .big => BitVec.ofNat 16 (higher.toNat + 256 * lower.toNat)

/-- The byte of a pixel that stands at the lower address (R62). -/
def lowerByte (o : ByteOrder) (p : Pixel) : Byte :=
  match o with
  | .little => p.extractLsb' 0 8
  | .big => p.extractLsb' 8 8

/-- The byte of a pixel that stands at the higher address (R62). -/
def higherByte (o : ByteOrder) (p : Pixel) : Byte :=
  match o with
  | .little => p.extractLsb' 8 8
  | .big => p.extractLsb' 0 8

/-- `MemRead(a, 2)` (20_memory.md R63). -/
def Memory.readPixel (o : ByteOrder) (m : Memory) (a : Nat) : Pixel :=
  joinBytes o (Memory.byte m a) (Memory.byte m (a + 1))

/-- `MemWrite(a, 2, p)` (R63). -/
def Memory.writePixel (o : ByteOrder) (m : Memory) (a : Nat) (p : Pixel) : Memory :=
  Memory.write (Memory.write m a (lowerByte o p)) (a + 1) (higherByte o p)

/-- The state with the selected unit replaced. -/
def State.setUnit (s : State) (u : Block) : State := { s with units := s.units.set s.sel u }

/-- The byte address after the last byte of the buffer, `BUF_BASE + 2*BUF_LEN`, on unbounded integers
(20_memory.md R66). -/
def Block.bufEnd (u : Block) : Nat := u.bufBase.toNat + 2 * u.bufLen.toNat

/-- The address of pixel `k` of the buffer, `ea(k)` (20_memory.md R61). -/
def Block.ea (u : Block) (k : Nat) : Nat := u.bufBase.toNat + 2 * k

/-- A byte address lies in the unit's active range (20_memory.md R71): the buffer of a command that runs. -/
def Block.activeAt (u : Block) (a : Nat) : Bool :=
  u.status.busy && u.bufBase.toNat ≤ a && a < u.bufEnd

/-- The buffers of two units share a byte (60_exceptions.md R222). -/
def Block.overlaps (u v : Block) : Bool :=
  max u.bufBase.toNat v.bufBase.toNat < min u.bufEnd v.bufEnd

/-- A write that BUSY makes ignored (10_state.md R26). -/
def Block.ignoreWrite (u : Block) : Block := { u with status := { u.status with wign := true } }

/-- `reject(code)` (60_exceptions.md R204): the block's one synchronous error event. -/
def Block.reject (u : Block) (e : CmdError) : Block :=
  { u with status := { u.status with err := true, errCode := e.code, done := true } }

/-- A host write to `STATUS` (10_state.md R30); with bit 2 set it acknowledges a rejection (60_exceptions.md R208). -/
def Block.writeStatus (u : Block) (w : Word) : Block :=
  { u with status :=
      { u.status with
        done := u.status.done && !w.getLsbD 1,
        wign := u.status.wign && !w.getLsbD 3,
        err := u.status.err && !w.getLsbD 2,
        errCode := if w.getLsbD 2 then 0 else u.status.errCode } }

end Sys2Proof.Machine
end

