-- ==== Sys2Proof/Machine/Flags.lean ====
section
/-! DEFINITION. The STATUS fields that accepted commands write (10_state.md R29, R31). -/

namespace Sys2Proof.Machine

/-- `STATUS.MATCH <- m; STATUS.HIT <- k; done()`: how an accepted single-pixel command ends
(42_pixel_adjust.md R153). -/
def Block.finish (u : Block) (m : Bool) (k : BitVec 4) : Block :=
  { u with status := { u.status with matched := m, hit := k, done := true } }

/-- `STATUS` as a register reads (10_state.md R28); the reserved bits read 0 (R24). -/
def Status.word (x : Status) : Word :=
  BitVec.ofNat 32
    (x.busy.toNat + 2 ^ 1 * x.done.toNat + 2 ^ 2 * x.err.toNat + 2 ^ 3 * x.wign.toNat +
      2 ^ 4 * x.errCode.toNat + 2 ^ 8 * x.matched.toNat + 2 ^ 12 * x.hit.toNat)

end Sys2Proof.Machine
end

