-- ==== Sys2Proof/Machine/Operands.lean ====
section
/-! DEFINITION. The register map (10_state.md R28), what a host reads and writes there, and the operands
that commands take from registers (30_encoding.md R85). -/

namespace Sys2Proof.Machine

/-- The named registers of the map (10_state.md R28). -/
inductive RegName where
  | id
  | cmd
  | status
  | pixIn
  | hsvIn
  | pixOut
  | hsvOut
  | bufBase
  | bufLen
  | gshift
  | ruleCount
  | matchCount
  | progress
  | ruleA (i : Nat)
  | ruleB (i : Nat)
  deriving DecidableEq, Repr

/-- The registers at fixed offsets (R28). -/
def regMap : List (Nat × RegName) :=
  [(0x00, .id), (0x04, .cmd), (0x08, .status), (0x0C, .pixIn), (0x10, .hsvIn), (0x14, .pixOut),
   (0x18, .hsvOut), (0x1C, .bufBase), (0x20, .bufLen), (0x24, .gshift), (0x28, .ruleCount),
   (0x2C, .matchCount), (0x30, .progress)]

/-- The register at a byte offset; none for a reserved offset (R28). -/
def RegName.ofOffset (maxRules off : Nat) : Option RegName :=
  if 0x40 ≤ off then
    if off < 0x40 + 8 * maxRules then
      if off % 8 = 0 then some (.ruleA ((off - 0x40) / 8))
      else if off % 8 = 4 then some (.ruleB ((off - 0x40) / 8))
      else none
    else none
  else regMap.lookup off

/-- The byte offset of a register (R28). -/
def RegName.offset : RegName → Nat
  | .id => 0x00
  | .cmd => 0x04
  | .status => 0x08
  | .pixIn => 0x0C
  | .hsvIn => 0x10
  | .pixOut => 0x14
  | .hsvOut => 0x18
  | .bufBase => 0x1C
  | .bufLen => 0x20
  | .gshift => 0x24
  | .ruleCount => 0x28
  | .matchCount => 0x2C
  | .progress => 0x30
  | .ruleA i => 0x40 + 8 * i
  | .ruleB i => 0x44 + 8 * i

/-- What `ID` reads (10_state.md R21). -/
def idValue : Word := 0x48535631

/-- Rule slot `i`, `rule(i)` of 10_state.md R34. -/
def Block.ruleAt (u : Block) (i : Nat) : RuleSlot := (u.rules[i]?).getD RuleSlot.zero

/-- `[rule(0), ..., rule(RULE_COUNT.COUNT - 1)]` (10_state.md R35). -/
def Block.ruleList (u : Block) : List RuleSlot := u.rules.take u.ruleCount.toNat

/-- `gsat`, the signed SAT_SHIFT of `GSHIFT` (10_state.md R36). -/
def Block.gsat (u : Block) : Int := u.gSatShift.toInt

/-- An HSV register as it reads (R28). -/
def Hsv.word (x : Hsv) : Word :=
  BitVec.ofNat 32 (x.h.toNat + 2 ^ 8 * x.s.toNat + 2 ^ 16 * x.v.toNat)

/-- `RULE_A` of a slot as it reads (R28; bits 31:24 are reserved). -/
def RuleSlot.wordA (r : RuleSlot) : Word :=
  BitVec.ofNat 32 (r.target.toNat + 2 ^ 8 * r.hueShift.toNat + 2 ^ 16 * r.radius.toNat)

/-- `GSHIFT` as it reads (R28; bits 15:8 are reserved). -/
def Block.gshiftWord (u : Block) : Word :=
  BitVec.ofNat 32 (u.gHueShift.toNat + 2 ^ 16 * u.gSatShift.toNat)

/-- An HSV register after a write of `w` (R28; bits 31:24 are reserved). -/
def Hsv.ofWord (w : Word) : Hsv :=
  { h := w.extractLsb' 0 8, s := w.extractLsb' 8 8, v := w.extractLsb' 16 8 }

/-- What a host read of a register returns; reserved bits read 0 (10_state.md R24, R28). -/
def Block.readReg (u : Block) : RegName → Word
  | .id => idValue
  | .cmd => u.cmd
  | .status => u.status.word
  | .pixIn => u.pixIn.setWidth 32
  | .hsvIn => u.hsvIn.word
  | .pixOut => u.pixOut.setWidth 32
  | .hsvOut => u.hsvOut.word
  | .bufBase => u.bufBase
  | .bufLen => u.bufLen
  | .gshift => u.gshiftWord
  | .ruleCount => u.ruleCount.setWidth 32
  | .matchCount => u.matchCount
  | .progress => u.progress
  | .ruleA i => (u.ruleAt i).wordA
  | .ruleB i => (u.ruleAt i).satShift.setWidth 32

/-- What a host read at an offset returns; a reserved offset reads 0 (10_state.md R23). -/
def Block.readAt (u : Block) (maxRules off : Nat) : Word :=
  match RegName.ofOffset maxRules off with
  | some r => u.readReg r
  | none => 0

/-- A write to `RULE_A[i]` (R28). -/
def RuleSlot.setA (r : RuleSlot) (w : Word) : RuleSlot :=
  { r with target := w.extractLsb' 0 8, hueShift := w.extractLsb' 8 8, radius := w.extractLsb' 16 8 }

/-- A write to `RULE_B[i]` (R28). -/
def RuleSlot.setB (r : RuleSlot) (w : Word) : RuleSlot := { r with satShift := w.extractLsb' 0 16 }

/-- A host write to a register other than `CMD`, whose writes issue commands (Machine/Host.lean).
Read-only registers ignore it (10_state.md R25); `STATUS` takes it at any time (R30); while BUSY = 1 the
other registers ignore it and set WIGN (R26); reserved bits are dropped (R24). -/
def Block.writeReg (u : Block) (r : RegName) (w : Word) : Block :=
  match r with
  | .id => u
  | .cmd => u
  | .status => u.writeStatus w
  | .pixIn => if u.status.busy then u.ignoreWrite else { u with pixIn := w.extractLsb' 0 16 }
  | .hsvIn => if u.status.busy then u.ignoreWrite else { u with hsvIn := Hsv.ofWord w }
  | .pixOut => u
  | .hsvOut => u
  | .bufBase => if u.status.busy then u.ignoreWrite else { u with bufBase := w }
  | .bufLen => if u.status.busy then u.ignoreWrite else { u with bufLen := w }
  | .gshift =>
    if u.status.busy then u.ignoreWrite
    else { u with gHueShift := w.extractLsb' 0 8, gSatShift := w.extractLsb' 16 16 }
  | .ruleCount => if u.status.busy then u.ignoreWrite else { u with ruleCount := w.extractLsb' 0 8 }
  | .matchCount => u
  | .progress => u
  | .ruleA i =>
    if u.status.busy then u.ignoreWrite else { u with rules := u.rules.set i ((u.ruleAt i).setA w) }
  | .ruleB i =>
    if u.status.busy then u.ignoreWrite else { u with rules := u.rules.set i ((u.ruleAt i).setB w) }

/-- A host write at an offset other than that of `CMD`; a reserved offset ignores it (10_state.md R23). -/
def Block.writeAt (u : Block) (maxRules off : Nat) (w : Word) : Block :=
  match RegName.ofOffset maxRules off with
  | some r => u.writeReg r w
  | none => u

end Sys2Proof.Machine
end

