-- ==== Sys2Proof/Machine/Issue.lean ====
section
/-! DEFINITION. Command issue (60_exceptions.md R203): the checks every command shares, the shape of a
single-pixel command (42_pixel_adjust.md R140) and of a buffer command (43_buffer.md R172, R173). -/

namespace Sys2Proof.Machine

/-- Whether a command uses `RULE_COUNT` and the rules below it (10_state.md R35). -/
def usesRuleCount : Instr → Bool
  | .pxmulti => true
  | .bufmulti => true
  | .nop => false
  | .rgb2hsv => false
  | .hsv2rgb => false
  | .inband _ => false
  | .pxshift => false
  | .pxband _ => false
  | .bufshift => false
  | .bufband _ => false

/-- The first check of R203 that a decoded command fails before its own rule is performed: RULE_INDEX
(30_encoding.md R84), then RULE_COUNT (10_state.md R35). -/
def Block.issueError (u : Block) (maxRules : Nat) (i : Instr) : Option CmdError :=
  if !i.wf maxRules then some .ruleIndex
  else if usesRuleCount i && maxRules < u.ruleCount.toNat then some .ruleCount
  else none

/-- Issue of a decoded command to the selected unit (60_exceptions.md R203): ignored while BUSY = 1
(10_state.md R26), rejected by a failing check, else `accept`. -/
def State.issueTo (s : State) (i : Instr) (accept : Block → Host.Outcome State Fault Refusal) :
    Host.Outcome State Fault Refusal :=
  match s.units[s.sel]? with
  | none => .refused .noSuchUnit
  | some u =>
    if u.status.busy then .next (s.setUnit u.ignoreWrite)
    else
      match u.issueError s.cfg.maxRules i with
      | some e => .next (s.setUnit (u.reject e))
      | none => accept u

/-- A single-pixel command (42_pixel_adjust.md R140): `CMD <- w`, then its own rule, in one transition. -/
def State.runSingle (s : State) (i : Instr) (body : Block → Block) : Host.Outcome State Fault Refusal :=
  s.issueTo i fun u => .next (s.setUnit (body { u with cmd := encode i }))

/-- How R203 goes on with a buffer command that decoded. -/
inductive BufferCheck where
  | noop
  | rejected (e : CmdError)
  | run
  deriving DecidableEq, Repr

/-- The no-op guards (60_exceptions.md R206), then ALIGN (20_memory.md R65), then RANGE (R66). -/
def Block.bufferCheck (u : Block) (c : Config) (i : Instr) : BufferCheck :=
  if u.bufBase = 0 ∨ u.bufLen = 0 ∨ (i = .bufmulti ∧ u.ruleCount = 0) then .noop
  else if u.bufBase.getLsbD 0 then .rejected .align
  else if memSize < u.bufEnd then .rejected .range
  else if !c.rangeAdmit u.bufBase.toNat u.bufEnd then .rejected .range
  else .run

/-- What every accepted buffer command writes, no-op or not (43_buffer.md R172, R173). -/
def Block.acceptBuffer (u : Block) (i : Instr) : Block :=
  { u with cmd := encode i, status := { u.status with matched := false, hit := 0 },
           progress := 0, matchCount := 0 }

/-- The completion of a no-op (43_buffer.md R173). -/
def Block.noopBuffer (u : Block) (i : Instr) : Block :=
  let u' := u.acceptBuffer i
  { u' with status := { u'.status with done := true } }

/-- The start of a buffer command that will run (43_buffer.md R172). -/
def Block.startBuffer (u : Block) (i : Instr) (mem : Memory) : Block :=
  let u' := u.acceptBuffer i
  { u' with status := { u'.status with done := false, busy := true }, before := mem }

/-- The buffer of `u` overlaps the active range of a unit that is busy (60_exceptions.md R222). -/
def State.overlapsBusy (s : State) (u : Block) : Bool :=
  s.units.any fun v => v.status.busy && u.overlaps v

/-- A buffer command (60_exceptions.md R203). One that starts over a range that overlaps another busy
unit's records `UNIT_OVERLAP` (R212, R222). -/
def State.runBuffer (s : State) (i : Instr) : Host.Outcome State Fault Refusal :=
  s.issueTo i fun u =>
    match u.bufferCheck s.cfg i with
    | .noop => .next (s.setUnit (u.noopBuffer i))
    | .rejected e => .next (s.setUnit (u.reject e))
    | .run =>
      .next { s.setUnit (u.startBuffer i s.mem) with
                unitOverlap := s.unitOverlap || s.overlapsBusy u }

end Sys2Proof.Machine
end

