-- ==== Sys2Proof/Machine/Buffer.lean ====
section
/-! DEFINITION. The buffer commands and the engine (43_buffer.md). A command's own transition accepts it
(R172, R173); the engine's steps then process one pixel each (R174). -/

namespace Sys2Proof.Machine

/-- `BUFSHIFT` (43_buffer.md R180). -/
def execBufshift (s : State) : Host.Outcome State Fault Refusal := s.runBuffer .bufshift

/-- `BUFBAND r<i>` (43_buffer.md R181). -/
def execBufband (i : RuleIdx) (s : State) : Host.Outcome State Fault Refusal := s.runBuffer (.bufband i)

/-- `BUFMULTI` (43_buffer.md R182). -/
def execBufmulti (s : State) : Host.Outcome State Fault Refusal := s.runBuffer .bufmulti

/-- `pixfn` of the command in `CMD` (43_buffer.md R171); none when `CMD` holds no buffer command. -/
def Block.pixfn (u : Block) (m : LutMode) (p : Pixel) : Option Adjusted :=
  match (opField u.cmd).toNat with
  | 8 => some (adjustGlobal m p u.gHueShift u.gsat)
  | 9 => some (adjustSingle m p (u.ruleAt (ridxField u.cmd).toNat))
  | 10 => some (adjustMulti m p u.ruleList)
  | _ => none

/-- The registers after the engine finished a pixel (43_buffer.md R174, R176); `m` says whether the pixel
was written. -/
def Block.afterPixel (u : Block) (m : Bool) : Block :=
  let last := u.progress + 1 == u.bufLen
  { u with progress := u.progress + 1,
           matchCount := if m then u.matchCount + 1 else u.matchCount,
           status := { u.status with busy := !last, done := u.status.done || last },
           before := if last then [] else u.before }

/-- The engine may make its next step: its pixel is in the buffer and both bytes are admitted. A state
with BUSY = 1 that fails this is stuck (93, log 15). -/
def Block.engineReady (u : Block) (c : Config) : Bool :=
  u.progress.toNat < u.bufLen.toNat &&
  c.memAdmit (u.ea u.progress.toNat) && c.memAdmit (u.ea u.progress.toNat + 1)

/-- `engine_step()` of unit `k` (43_buffer.md R174). Where BUSY = 0 the step is not enabled and nothing
happens. An unmatched pixel is not written (R175). -/
def State.engineStep (s : State) (k : Nat) : Host.Outcome State Fault Refusal :=
  match s.units[k]? with
  | none => .refused .noSuchUnit
  | some u =>
    if !u.status.busy then .next s
    else if !u.engineReady s.cfg then .fault .engineStuck
    else
      let a := u.ea u.progress.toNat
      match u.pixfn s.cfg.lutMode (Memory.readPixel s.cfg.byteOrder s.mem a) with
      | none => .fault .engineStuck
      | some r =>
        .next { s with
                  units := s.units.set k (u.afterPixel r.matched),
                  mem := if r.matched then Memory.writePixel s.cfg.byteOrder s.mem a r.pixel else s.mem }

end Sys2Proof.Machine
end

