-- ==== Sys2Proof/Machine/Conversion.lean ====
section
/-! DEFINITION. The conversion commands (40_conversion.md). -/

namespace Sys2Proof.Machine

/-- `RGB2HSV` (40_conversion.md R110). -/
def execRgb2hsv (s : State) : Host.Outcome State Fault Refusal :=
  s.runSingle .rgb2hsv fun u =>
    Block.finish { u with hsvOut := rgb565ToHsv s.cfg.lutMode u.pixIn } false 0

/-- `HSV2RGB` (40_conversion.md R120). -/
def execHsv2rgb (s : State) : Host.Outcome State Fault Refusal :=
  s.runSingle .hsv2rgb fun u =>
    Block.finish { u with pixOut := hsvToRgb565 u.hsvIn } false 0

end Sys2Proof.Machine
end

