-- ==== Sys2Proof/Machine/PixelAdjust.lean ====
section
/-! DEFINITION. `NOP` and the single-pixel adjustment commands (42_pixel_adjust.md). -/

namespace Sys2Proof.Machine

/-- `NOP` (42_pixel_adjust.md R154). -/
def execNop (s : State) : Host.Outcome State Fault Refusal :=
  s.runSingle .nop fun u => u.finish false 0

/-- `HSV_OUT` takes the unadjusted HSV of `PIX_IN` and `PIX_OUT` the adjusted pixel
(10_state.md R33, 42_pixel_adjust.md R150 to R152). -/
def Block.adjustOut (u : Block) (m : LutMode) (q : Pixel) : Block :=
  { u with hsvOut := rgb565ToHsv m u.pixIn, pixOut := q }

/-- `PXSHIFT` (42_pixel_adjust.md R150). -/
def execPxshift (s : State) : Host.Outcome State Fault Refusal :=
  s.runSingle .pxshift fun u =>
    let r := adjustGlobal s.cfg.lutMode u.pixIn u.gHueShift u.gsat
    (u.adjustOut s.cfg.lutMode r.pixel).finish true 0

/-- `PXBAND r<i>` (42_pixel_adjust.md R151). -/
def execPxband (i : RuleIdx) (s : State) : Host.Outcome State Fault Refusal :=
  s.runSingle (.pxband i) fun u =>
    let r := adjustSingle s.cfg.lutMode u.pixIn (u.ruleAt i.toNat)
    (u.adjustOut s.cfg.lutMode r.pixel).finish r.matched (if r.matched then i else 0)

/-- `PXMULTI` (42_pixel_adjust.md R152). -/
def execPxmulti (s : State) : Host.Outcome State Fault Refusal :=
  s.runSingle .pxmulti fun u =>
    let r := adjustMulti s.cfg.lutMode u.pixIn u.ruleList
    (u.adjustOut s.cfg.lutMode r.pixel).finish r.matched r.hit

end Sys2Proof.Machine
end

