-- ==== Sys2Proof/Machine/Predicate.lean ====
section
/-! DEFINITION. The hue-band command (41_predicate.md). -/

namespace Sys2Proof.Machine

/-- `INBAND r<i>` (41_predicate.md R133). -/
def execInband (i : RuleIdx) (s : State) : Host.Outcome State Fault Refusal :=
  s.runSingle (.inband i) fun u =>
    let m := inBand u.hsvIn.h (u.ruleAt i.toNat).target (u.ruleAt i.toNat).radius
    u.finish m (if m then i else 0)

end Sys2Proof.Machine
end

