-- ==== Sys2Proof/Machine/Dispatch.lean ====
section
/-! DEFINITION. The meaning of each command: its issue to the unit `State.sel`. -/

namespace Sys2Proof.Machine

def exec (i : Instr) (s : State) : Host.Outcome State Fault Refusal :=
  match i with
  | .nop => Sys2Proof.Machine.execNop s
  | .rgb2hsv => Sys2Proof.Machine.execRgb2hsv s
  | .hsv2rgb => Sys2Proof.Machine.execHsv2rgb s
  | .inband k => Sys2Proof.Machine.execInband k s
  | .pxshift => Sys2Proof.Machine.execPxshift s
  | .pxband k => Sys2Proof.Machine.execPxband k s
  | .pxmulti => Sys2Proof.Machine.execPxmulti s
  | .bufshift => Sys2Proof.Machine.execBufshift s
  | .bufband k => Sys2Proof.Machine.execBufband k s
  | .bufmulti => Sys2Proof.Machine.execBufmulti s

end Sys2Proof.Machine
end

