-- ==== Sys2Proof/Machine/Host.lean ====
section
/-! DEFINITION. What the host does: register accesses (10_state.md R22 to R30), command issue
(60_exceptions.md R203), accesses to buffer memory (20_memory.md R70, R71), reset
(70_reset_and_hazards.md R230), and the transition each agenda entry stands for. -/

namespace Sys2Proof.Machine

/-- Issue of the word `w` to the selected unit (60_exceptions.md R203): ignored while BUSY = 1 (10_state.md
R26), rejected when it does not decode (30_encoding.md R86), else the command is executed. -/
def State.issue (s : State) (w : Word) : Host.Outcome State Fault Refusal :=
  match s.units[s.sel]? with
  | none => .refused .noSuchUnit
  | some u =>
    if u.status.busy then .next (s.setUnit u.ignoreWrite)
    else
      match decode s.cfg.maxRules w with
      | .error e => .next (s.setUnit (u.reject e))
      | .ok i => exec i s

/-- A host write to the register space (10_state.md R22): one to `CMD` issues the word (R27). -/
def State.regWrite (s : State) (addr : Nat) (width : AccessWidth) (w : Word) :
    Host.Outcome State Fault Refusal :=
  match s.cfg.route addr width with
  | none => .refused .badAccess
  | some (k, off) =>
    match s.units[k]? with
    | none => .refused .noSuchUnit
    | some u =>
      if off = RegName.cmd.offset then State.issue { s with sel := k } w
      else .next (State.setUnit { s with sel := k } (u.writeAt s.cfg.maxRules off w))

/-- A host read of the register space (10_state.md R22, R23); it changes no register. -/
def State.regRead (s : State) (addr : Nat) (width : AccessWidth) : Host.Outcome State Fault Refusal :=
  match s.cfg.route addr width with
  | none => .refused .badAccess
  | some (k, off) =>
    match s.units[k]? with
    | none => .refused .noSuchUnit
    | some u => .next { s with sel := k, hostData := some (u.readAt s.cfg.maxRules off) }

/-- The unit whose active range (20_memory.md R71) an address lies in, the first one if two overlap. -/
def State.activeUnit (s : State) (a : Nat) : Option Block := s.units.find? fun u => u.activeAt a

/-- The value the command of `u` leaves in the pixel at address `a`, from the memory before it (43_buffer.md
R178). -/
def Block.newPixel (u : Block) (c : Config) (a : Nat) : Pixel :=
  match u.pixfn c.lutMode (Memory.readPixel c.byteOrder u.before a) with
  | some r => r.pixel
  | none => Memory.readPixel c.byteOrder u.before a

/-- The byte a host read returns (20_memory.md R71): in the active range of `u` the byte of the old or of
the new value of its pixel, a free draw per pixel (log 10); elsewhere the byte in memory. -/
def State.hostByte (s : State) (a : Nat) : Byte :=
  match s.activeUnit a with
  | none => Memory.byte s.mem a
  | some u =>
    let pa := u.ea ((a - u.bufBase.toNat) / 2)
    let p := if Config.readsNew s.draws pa then u.newPixel s.cfg pa
             else Memory.readPixel s.cfg.byteOrder u.before pa
    if a = pa then lowerByte s.cfg.byteOrder p else higherByte s.cfg.byteOrder p

/-- Whether the platform lets the host access a byte of buffer memory: the stop that prevents it, if any
(20_memory.md R60, R64; log 11). -/
def State.checkAccess (s : State) (a : Nat) (k : Host.Outcome State Fault Refusal) :
    Host.Outcome State Fault Refusal :=
  if memSize ≤ a then .fault .noSuchAddress
  else if !s.cfg.memAdmit a then .refused .memNotAdmitted
  else k

/-- A host write of one byte: in an active range it is the recorded fault `HOST_RACE` (20_memory.md R71,
60_exceptions.md R212), and what the byte then holds is free (log 8). -/
def State.storeByte (s : State) (a : Nat) (b : Byte) : State :=
  if (s.activeUnit a).isSome then
    { s with mem := Memory.write s.mem a (Config.raceByte s.draws a), hostRace := true }
  else { s with mem := Memory.write s.mem a b }

/-- The next draws of free values are fresh ones (log 10). -/
def State.nextDraw (s : State) : State := { s with draws := s.draws + 1 }

/-- A host read of a pixel of buffer memory (`mrd`, 30_encoding.md R88). -/
def State.memRead (s : State) (a : Nat) : Host.Outcome State Fault Refusal :=
  s.checkAccess a (s.checkAccess (a + 1)
    (.next { s.nextDraw with
      hostData := some ((joinBytes s.cfg.byteOrder (s.hostByte a) (s.hostByte (a + 1))).setWidth 32) }))

/-- A host read of one byte of buffer memory (log 12). -/
def State.memReadByte (s : State) (a : Nat) : Host.Outcome State Fault Refusal :=
  s.checkAccess a (.next { s.nextDraw with hostData := some ((s.hostByte a).setWidth 32) })

/-- A host write of a pixel to buffer memory (`mwr`, 30_encoding.md R88, `MemWrite` of 20_memory.md R63). -/
def State.memWrite (s : State) (a : Nat) (p : Pixel) : Host.Outcome State Fault Refusal :=
  s.checkAccess a (s.checkAccess (a + 1)
    (.next ((s.storeByte a (lowerByte s.cfg.byteOrder p)).storeByte (a + 1)
      (higherByte s.cfg.byteOrder p)).nextDraw))

/-- A host write of one byte to buffer memory (log 12). -/
def State.memWriteByte (s : State) (a : Nat) (b : Byte) : Host.Outcome State Fault Refusal :=
  s.checkAccess a (.next (s.storeByte a b).nextDraw)

/-- Reset of unit `k` (70_reset_and_hazards.md R230, R231): its registers take their reset values and its
engine stops; memory, parameters, recorded faults and the other units stay. -/
def State.resetUnit (s : State) (k : Nat) : Host.Outcome State Fault Refusal :=
  if k < s.units.length then .next { s with units := s.units.set k (Block.reset s.cfg.maxRules) }
  else .refused .noSuchUnit

/-- One poll of `wait` (30_encoding.md R89): a read of `STATUS`; while BUSY = 1 the loop goes on after
an engine step of that unit (log 13). -/
def State.poll (s : State) (k : Nat) : Host.Outcome State Fault Refusal :=
  match s.units[k]? with
  | none => .refused .noSuchUnit
  | some u =>
    .next { s with sel := k, hostData := some u.status.word,
                   agenda := if u.status.busy then .engine k :: .wait k :: s.agenda else s.agenda }

/-- The transition that an agenda entry stands for. -/
def State.perform (s : State) : Event → Host.Outcome State Fault Refusal
  | .regWrite addr width value => s.regWrite addr width value
  | .regRead addr width => s.regRead addr width
  | .memWrite addr p => s.memWrite addr p
  | .memWriteByte addr b => s.memWriteByte addr b
  | .memRead addr => s.memRead addr
  | .memReadByte addr => s.memReadByte addr
  | .engine k => s.engineStep k
  | .reset k => s.resetUnit k
  | .wait k => s.poll k

/-- What happens when no host transition is left: the engine of a busy unit goes on, the first one's if
several are busy (weak fairness, 70_reset_and_hazards.md R246); with none busy nothing happens
(60_exceptions.md R217). -/
def State.settle (s : State) : Host.Outcome State Fault Refusal :=
  match s.units.findIdx? fun u => u.status.busy with
  | some k => s.engineStep k
  | none => .next s

/-- One step: the next transition of the agenda. With parameters outside their legal values the model
gives no meaning (60_exceptions.md R212). -/
def State.advance (s : State) : Host.Outcome State Fault Refusal :=
  if !s.cfg.legal then .refused .badParameter
  else
    match s.agenda with
    | [] => s.settle
    | e :: rest => State.perform { s with agenda := rest } e

/-- The state in which the next transition is the host's write of `word` to `CMD` of unit 0, which is
not busy. -/
def State.placeCommand (s : State) (word : Word) : State :=
  { s with
      agenda := .regWrite (s.cfg.regBases.headD 0 + RegName.cmd.offset) .b32 word :: s.agenda,
      units := s.units.modify 0 fun u => { u with status := { u.status with busy := false } } }

end Sys2Proof.Machine
end

