-- ==== Sys2Proof/Machine/Step.lean ====
section
/-! DEFINITION. The step function, and how the host's words are placed for it. -/

namespace Sys2Proof.Machine

/-- One indivisible transition of the platform (60_exceptions.md R211). -/
def step (s : State) : Host.Outcome State Fault Refusal := s.advance

/-- The block fetches no instructions: its instruction stream is the words the host writes to `CMD`
(10_state.md R39). This puts such a write first on the agenda (log 4). -/
def State.withFetchWord (s : State) (nbits w : Nat) : State :=
  s.placeCommand (BitVec.ofNat 32 (w % 2 ^ nbits))

end Sys2Proof.Machine
end

