-- ==== Sys2Proof/Machine/Program.lean ====
section
/-! DEFINITION. The notation for host programs (30_encoding.md R88) and its pseudo-instructions (R89), as the
transitions they stand for. -/

namespace Sys2Proof.Machine

/-- A statement of a host program (R88) or a pseudo-instruction (R89). `rule` and `gshift` take their
shifts as integers, of which they store the two's complement low bits. -/
inductive HostStmt where
  | wr (r : RegName) (value : Word)
  | rd (r : RegName)
  | mwr (addr : Nat) (p : Pixel)
  | mrd (addr : Nat)
  | cmd (i : Instr)
  | wait
  | rule (i : Nat) (target : Byte) (hueShift : Int) (radius : Byte) (satShift : Int)
  | gshift (hueShift : Int) (satShift : Int)
  | clr
  deriving DecidableEq, Repr

/-- `wr REG, value` for the block at `regBase` (R88). -/
def wrEvent (regBase : Nat) (r : RegName) (value : Word) : Event :=
  .regWrite (regBase + r.offset) .b32 value

/-- The transitions of a statement, for unit `k` with its block at `regBase` (R88, R89). -/
def HostStmt.expand (regBase k : Nat) : HostStmt → List Event
  | .wr r value => [wrEvent regBase r value]
  | .rd r => [.regRead (regBase + r.offset) .b32]
  | .mwr addr p => [.memWrite addr p]
  | .mrd addr => [.memRead addr]
  | .cmd i => [wrEvent regBase .cmd (encode i)]
  | .wait => [.wait k]
  | .rule i target hueShift radius satShift =>
    [wrEvent regBase (.ruleA i) (RuleSlot.wordA ⟨target, BitVec.ofInt 8 hueShift, radius, 0⟩),
     wrEvent regBase (.ruleB i) ((BitVec.ofInt 16 satShift).setWidth 32)]
  | .gshift hueShift satShift =>
    [wrEvent regBase .gshift
      (BitVec.ofNat 32 ((BitVec.ofInt 8 hueShift).toNat + 2 ^ 16 * (BitVec.ofInt 16 satShift).toNat))]
  | .clr => [wrEvent regBase .status 0x0000000E]

/-- The state with a host program for unit `k` put on the agenda. -/
def State.load (s : State) (k : Nat) (prog : List HostStmt) : State :=
  { s with agenda := prog.flatMap (HostStmt.expand (s.cfg.regBases.getD k 0) k) ++ s.agenda }

end Sys2Proof.Machine
end

