-- ==== Sys2Proof/Safety.lean ====
section
/-! DEFINITION. What claims are stated in: the invariant of the machine, and which runs are free of the
recorded model faults. -/

namespace Sys2Proof.Machine

/-- What holds of a unit's STATUS (10_state.md R29, 60_exceptions.md R202): ERRCODE is 0 exactly while ERR
is 0, codes 7 to 15 are never recorded, HIT is 0 without a match. -/
abbrev Status.Inv (x : Status) : Prop :=
  (x.err = false ↔ x.errCode = 0) ∧ x.errCode.toNat ≤ 6 ∧ (x.matched = false → x.hit = 0)

/-- What holds of a unit while it is busy: its buffer passed the checks of 60_exceptions.md R203, `CMD` is
the buffer command that runs, the next pixel is in the buffer, and DONE, MATCH are 0 (43_buffer.md R172). -/
abbrev Block.RunInv (c : Config) (u : Block) : Prop :=
  u.status.done = false ∧ u.status.matched = false ∧
  u.bufBase ≠ 0 ∧ u.bufBase.getLsbD 0 = false ∧ u.bufEnd ≤ memSize ∧
  c.rangeAdmit u.bufBase.toNat u.bufEnd = true ∧ u.progress.toNat < u.bufLen.toNat ∧
  ((opField u.cmd).toNat = 8 ∨ (opField u.cmd).toNat = 9 ∨
    (opField u.cmd).toNat = 10 ∧ u.ruleCount ≠ 0 ∧ u.ruleCount.toNat ≤ c.maxRules)

/-- What holds of a unit: the rule table has `MAX_RULES` slots (10_state.md R34), `CMD` holds a command of
R87, and the counters are in order (10_state.md R38). -/
abbrev Block.Inv (c : Config) (u : Block) : Prop :=
  u.rules.length = c.maxRules ∧ (decode c.maxRules u.cmd).toOption.isSome = true ∧ u.status.Inv ∧
  u.matchCount.toNat ≤ u.progress.toNat ∧ Memory.wf u.before ∧
  (u.status.busy = true → u.RunInv c)

/-- The invariant of the machine, for any legal parameters. -/
abbrev State.Inv (s : State) : Prop :=
  s.cfg.legal = true ∧ s.units.length = s.cfg.regBases.length ∧ s.sel < s.units.length ∧
  Memory.wf s.mem ∧ ∀ u ∈ s.units, u.Inv s.cfg

/-- No model fault is recorded (60_exceptions.md R212: no claim about a run holds past one). -/
def State.faultFree (s : State) : Bool := !s.hostRace && !s.unitOverlap

/-- The active ranges of two busy units are disjoint (60_exceptions.md R222). -/
abbrev State.Disjoint (s : State) : Prop :=
  s.units.Pairwise fun u v => u.status.busy = true → v.status.busy = true → u.overlaps v = false

/-- The selected unit is `u` and it is not busy, so a command word written to it is issued
(60_exceptions.md R203). -/
abbrev State.Idle (s : State) (u : Block) : Prop :=
  s.units[s.sel]? = some u ∧ u.status.busy = false

/-- The bytes of the buffer of `u`: from `BUF_BASE` up to `BUF_BASE + 2*BUF_LEN` (20_memory.md R71). -/
abbrev Block.inBuffer (u : Block) (a : Nat) : Prop := u.bufBase.toNat ≤ a ∧ a < u.bufEnd

/-- What the buffer command in `CMD` makes of a pixel (43_buffer.md R171, R178). -/
def Block.pixelAfter (u : Block) (m : LutMode) (p : Pixel) : Pixel :=
  match u.pixfn m p with
  | some r => r.pixel
  | none => p

/-- Whether the buffer command in `CMD` matches a pixel (43_buffer.md R171, R178). -/
def Block.pixelMatched (u : Block) (m : LutMode) (p : Pixel) : Bool :=
  match u.pixfn m p with
  | some r => r.matched
  | none => false

/-- What holds of the buffer of a unit while it is busy (43_buffer.md R178, R231; `before` is log 10): the pixels
below `PROGRESS` have their final values, the other ones the values from before the command, and `MATCH_COUNT`
counts the matched ones among the finished. -/
abbrev Block.Progressed (c : Config) (m : Memory) (u : Block) : Prop :=
  u.status.busy = true →
    (∀ j, j < u.bufLen.toNat →
      Memory.readPixel c.byteOrder m (u.ea j) =
        if j < u.progress.toNat then
          u.pixelAfter c.lutMode (Memory.readPixel c.byteOrder u.before (u.ea j))
        else Memory.readPixel c.byteOrder u.before (u.ea j)) ∧
    u.matchCount.toNat = ((List.range u.progress.toNat).filter fun j =>
      u.pixelMatched c.lutMode (Memory.readPixel c.byteOrder u.before (u.ea j))).length

/-- The state an outcome gives, if it gives one. -/
def nextState : Host.Outcome State Fault Refusal → Option State
  | .next s => some s
  | .fault _ => none
  | .refused _ => none

/-- `n` engine steps of unit `k` in a row (43_buffer.md R174), while they give a next state. -/
def State.engineSteps (s : State) (k : Nat) : Nat → Option State
  | 0 => some s
  | n + 1 => (nextState (s.engineStep k)).bind fun t => t.engineSteps k n

end Sys2Proof.Machine
end

