-- ==== Sys2Proof/Certificates/Slice0/Obligations.lean ====
section
/-! DEFINITION. The statements for the provers, from the numbered rules of spec/. -/

open Sys2Proof Sys2Proof.Machine

/-! ## Encoding -/

/-- R86, R87: decoding the word of a well-formed command gives the command back, for every number of rule
slots and every rule index. -/
def Obligations.DecodeEncodeRoundTrip : Prop :=
  ∀ (n : Nat) (i : Instr), i.wf n = true → decode n (encode i) = .ok i

/-- R87: each command has exactly one legal word for each legal index, the one of the table; `n` is `MAX_RULES`. -/
def Obligations.CanonicalWords : Prop :=
  ∀ (n : Nat) (w : Word),
    (decode n w = .ok .nop ↔ w = 0x00000000) ∧
    (decode n w = .ok .rgb2hsv ↔ w = 0x00000001) ∧
    (decode n w = .ok .hsv2rgb ↔ w = 0x00000002) ∧
    (∀ i : RuleIdx, decode n w = .ok (.inband i) ↔
      w = 0x00000003 ||| (i.setWidth 32 <<< 4) ∧ i.toNat < n) ∧
    (decode n w = .ok .pxshift ↔ w = 0x00000004) ∧
    (∀ i : RuleIdx, decode n w = .ok (.pxband i) ↔
      w = 0x00000005 ||| (i.setWidth 32 <<< 4) ∧ i.toNat < n) ∧
    (decode n w = .ok .pxmulti ↔ w = 0x00000006) ∧
    (decode n w = .ok .bufshift ↔ w = 0x00000008) ∧
    (∀ i : RuleIdx, decode n w = .ok (.bufband i) ↔
      w = 0x00000009 ||| (i.setWidth 32 <<< 4) ∧ i.toNat < n) ∧
    (decode n w = .ok .bufmulti ↔ w = 0x0000000A)

/-- R83, R86 in the arithmetic of the word's fields: which words are rejected with which code, in the order of the
checks, and that every other word is the command its opcode and index say. -/
def Obligations.DecodeChecksInOrder : Prop :=
  ∀ (n : Nat) (w : Word),
    let op := w.toNat % 16
    let i := w.toNat / 16 % 16
    let reserved := w.toNat / 256
    if op = 7 ∨ 11 ≤ op then ∃ e, decode n w = .error e ∧ e.code = 1
    else if reserved ≠ 0 then ∃ e, decode n w = .error e ∧ e.code = 2
    else if ¬(op = 3 ∨ op = 5 ∨ op = 9) ∧ i ≠ 0 then ∃ e, decode n w = .error e ∧ e.code = 2
    else if (op = 3 ∨ op = 5 ∨ op = 9) ∧ n ≤ i then ∃ e, decode n w = .error e ∧ e.code = 3
    else ∃ ins, decode n w = .ok ins ∧ ins.opcode.toNat = op ∧ ins.ridx.toNat = i

/-- R87: some words written out from the table. -/
def Obligations.WrittenWordsDecode : Prop :=
  decode 8 0x00000000 = .ok .nop ∧ decode 8 0x00000002 = .ok .hsv2rgb ∧
  decode 8 0x00000025 = .ok (.pxband 2) ∧ decode 8 0x00000009 = .ok (.bufband 0) ∧
  decode 8 0x0000000A = .ok .bufmulti

/-! ## A step runs the decoded command -/

/-- R27, R203: when the next transition is the host's write of a word to `CMD` of a unit that is not busy, and
the word decodes, the step is the execution of the command on that unit, with the write taken off the
agenda. -/
def Obligations.StepRunsDecodedCommand : Prop :=
  ∀ (s : State) (k base : Nat) (w : Word) (i : Instr) (rest : List Event) (u : Block),
    s.cfg.legal = true → s.cfg.regBases[k]? = some base → s.units[k]? = some u →
    u.status.busy = false → decode s.cfg.maxRules w = .ok i →
    s.agenda = .regWrite (base + 0x04) .b32 w :: rest →
    step s = exec i { s with agenda := rest, sel := k }

/-- R201, R204: a word that does not decode is rejected: ERR, ERRCODE and DONE are written and nothing else. -/
def Obligations.UndecodableWordRejected : Prop :=
  ∀ (s : State) (k base : Nat) (w : Word) (e : CmdError) (rest : List Event) (u : Block),
    s.cfg.legal = true → s.cfg.regBases[k]? = some base → s.units[k]? = some u →
    u.status.busy = false → decode s.cfg.maxRules w = .error e →
    s.agenda = .regWrite (base + 0x04) .b32 w :: rest →
    step s = .next
      { s with agenda := rest, sel := k,
               units := s.units.set k
                 { u with status := { u.status with err := true, errCode := e.code, done := true } } }

/-! ## Single-pixel commands -/

/-- R154: `NOP` writes `CMD`, sets DONE and clears MATCH and HIT. -/
def Obligations.NopResult : Prop :=
  ∀ (s : State) (u : Block), s.Idle u →
    exec .nop s = .next (s.setUnit
      { u with cmd := 0x00000000, status := { u.status with matched := false, hit := 0, done := true } })

/-- R110: `RGB2HSV` writes `HSV_OUT` with the conversion of `PIX_IN`. -/
def Obligations.Rgb2hsvResult : Prop :=
  ∀ (s : State) (u : Block), s.Idle u →
    exec .rgb2hsv s = .next (s.setUnit
      { u with cmd := 0x00000001, hsvOut := rgb565ToHsv s.cfg.lutMode u.pixIn,
               status := { u.status with matched := false, hit := 0, done := true } })

/-- R120: `HSV2RGB` writes `PIX_OUT` with the conversion of `HSV_IN`. -/
def Obligations.Hsv2rgbResult : Prop :=
  ∀ (s : State) (u : Block), s.Idle u →
    exec .hsv2rgb s = .next (s.setUnit
      { u with cmd := 0x00000002, pixOut := hsvToRgb565 u.hsvIn,
               status := { u.status with matched := false, hit := 0, done := true } })

/-- R133: `INBAND r<i>` tests the circular distance of `HSV_IN.H` from the slot's TARGET against its RADIUS. -/
def Obligations.InbandResult : Prop :=
  ∀ (s : State) (u : Block) (i : RuleIdx), s.Idle u → i.toNat < s.cfg.maxRules →
    let d := ((u.hsvIn.h.toNat : Int) - (u.ruleAt i.toNat).target.toNat).natAbs
    let m := decide (min d (256 - d) ≤ (u.ruleAt i.toNat).radius.toNat)
    exec (.inband i) s = .next (s.setUnit
      { u with cmd := BitVec.ofNat 32 (3 + 16 * i.toNat),
               status := { u.status with matched := m, hit := if m then i else 0, done := true } })

/-- R150: `PXSHIFT` shifts every pixel: MATCH is 1, `HSV_OUT` is the unadjusted HSV. -/
def Obligations.PxshiftResult : Prop :=
  ∀ (s : State) (u : Block), s.Idle u →
    exec .pxshift s = .next (s.setUnit
      { u with cmd := 0x00000004, hsvOut := rgb565ToHsv s.cfg.lutMode u.pixIn,
               pixOut := hsvToRgb565
                 (shiftHsv (rgb565ToHsv s.cfg.lutMode u.pixIn) u.gHueShift u.gSatShift.toInt),
               status := { u.status with matched := true, hit := 0, done := true } })

/-- R151: `PXBAND r<i>` re-encodes `PIX_IN` with slot `i` when its hue is in the band, and else copies it. -/
def Obligations.PxbandResult : Prop :=
  ∀ (s : State) (u : Block) (i : RuleIdx), s.Idle u → i.toNat < s.cfg.maxRules →
    let x := rgb565ToHsv s.cfg.lutMode u.pixIn
    let r := u.ruleAt i.toNat
    let m := inBand x.h r.target r.radius
    exec (.pxband i) s = .next (s.setUnit
      { u with cmd := BitVec.ofNat 32 (5 + 16 * i.toNat), hsvOut := x,
               pixOut := if m then hsvToRgb565 (shiftHsv x r.hueShift r.satShift.toInt) else u.pixIn,
               status := { u.status with matched := m, hit := if m then i else 0, done := true } })

/-- R152 with a match: slot `k` is below COUNT, covers the hue, and no lower slot does: its shifts are
applied and HIT is `k`. -/
def Obligations.PxmultiFirstMatch : Prop :=
  ∀ (s : State) (u : Block) (k : Nat), s.Idle u → u.ruleCount.toNat ≤ s.cfg.maxRules →
    s.cfg.maxRules ≤ 16 → u.rules.length = s.cfg.maxRules → k < u.ruleCount.toNat →
    let x := rgb565ToHsv s.cfg.lutMode u.pixIn
    inBand x.h (u.ruleAt k).target (u.ruleAt k).radius = true →
    (∀ j, j < k → inBand x.h (u.ruleAt j).target (u.ruleAt j).radius = false) →
    exec .pxmulti s = .next (s.setUnit
      { u with cmd := 0x00000006, hsvOut := x,
               pixOut := hsvToRgb565 (shiftHsv x (u.ruleAt k).hueShift (u.ruleAt k).satShift.toInt),
               status := { u.status with matched := true, hit := BitVec.ofNat 4 k, done := true } })

/-- R152, R146 without a match, the empty list (COUNT = 0) among it: `PIX_OUT` is `PIX_IN` bit for bit, MATCH and HIT
are 0. -/
def Obligations.PxmultiNoMatch : Prop :=
  ∀ (s : State) (u : Block), s.Idle u → u.ruleCount.toNat ≤ s.cfg.maxRules →
    u.rules.length = s.cfg.maxRules →
    let x := rgb565ToHsv s.cfg.lutMode u.pixIn
    (∀ j, j < u.ruleCount.toNat → inBand x.h (u.ruleAt j).target (u.ruleAt j).radius = false) →
    exec .pxmulti s = .next (s.setUnit
      { u with cmd := 0x00000006, hsvOut := x, pixOut := u.pixIn,
               status := { u.status with matched := false, hit := 0, done := true } })

/-- The frame of the seven single-pixel commands (R140, R153, R85), in every state where they answer: no byte of
memory, no other unit and none of the platform's fields changes; of the selected unit only `CMD`, `STATUS`
(BUSY not), `PIX_OUT` (HSV2RGB, PXSHIFT, PXBAND, PXMULTI only) and `HSV_OUT` (RGB2HSV, PXSHIFT, PXBAND, PXMULTI
only) may change, and where the command is accepted ERR, ERRCODE and WIGN do not change either. -/
def Obligations.SinglePixelFrame : Prop :=
  ∀ (s t : State) (u : Block) (i : Instr), s.units[s.sel]? = some u → i.opcode.toNat ≤ 6 →
    exec i s = .next t →
    t.cfg = s.cfg ∧ (∀ a, Memory.byte t.mem a = Memory.byte s.mem a) ∧ t.hostRace = s.hostRace ∧
    t.unitOverlap = s.unitOverlap ∧ t.agenda = s.agenda ∧ t.sel = s.sel ∧ t.hostData = s.hostData ∧
    t.draws = s.draws ∧ (∀ k, k ≠ s.sel → t.units[k]? = s.units[k]?) ∧
    ∃ v, t.units[s.sel]? = some v ∧
      v.pixIn = u.pixIn ∧ v.hsvIn = u.hsvIn ∧ v.bufBase = u.bufBase ∧ v.bufLen = u.bufLen ∧
      v.gHueShift = u.gHueShift ∧ v.gSatShift = u.gSatShift ∧ v.ruleCount = u.ruleCount ∧
      v.rules = u.rules ∧ v.matchCount = u.matchCount ∧ v.progress = u.progress ∧ v.before = u.before ∧
      v.status.busy = u.status.busy ∧
      (i.opcode = 0 ∨ i.opcode = 1 ∨ i.opcode = 3 → v.pixOut = u.pixOut) ∧
      (i.opcode = 0 ∨ i.opcode = 2 ∨ i.opcode = 3 → v.hsvOut = u.hsvOut) ∧
      (u.status.busy = false → i.wf s.cfg.maxRules = true →
        (i = .pxmulti → u.ruleCount.toNat ≤ s.cfg.maxRules) →
        v.status.err = u.status.err ∧ v.status.errCode = u.status.errCode ∧
        v.status.wign = u.status.wign)

/-! ## Issue: ignored, rejected -/

/-- R26: any command issued to a busy unit is ignored; WIGN is set and nothing else changes. -/
def Obligations.BusyUnitIgnoresCommands : Prop :=
  ∀ (s : State) (u : Block) (i : Instr), s.units[s.sel]? = some u → u.status.busy = true →
    exec i s = .next (s.setUnit { u with status := { u.status with wign := true } })

/-- R84, R204: a rule index at or above `MAX_RULES` rejects INBAND, PXBAND and BUFBAND with RULE_INDEX. -/
def Obligations.RuleIndexRejected : Prop :=
  ∀ (s : State) (u : Block) (r : RuleIdx) (i : Instr), s.Idle u → s.cfg.maxRules ≤ r.toNat →
    i = .inband r ∨ i = .pxband r ∨ i = .bufband r →
    exec i s = .next (s.setUnit
      { u with status := { u.status with err := true, errCode := 3, done := true } })

/-- R35, R204: COUNT above `MAX_RULES` rejects the multi-rule commands with RULE_COUNT. -/
def Obligations.RuleCountRejected : Prop :=
  ∀ (s : State) (u : Block) (i : Instr), s.Idle u → s.cfg.maxRules < u.ruleCount.toNat →
    i = .pxmulti ∨ i = .bufmulti →
    exec i s = .next (s.setUnit
      { u with status := { u.status with err := true, errCode := 4, done := true } })

/-! ## Buffer commands at issue -/

/-- R203, R205, R206 for the buffer commands, in the order of the checks: the no-op guards, ALIGN, RANGE by
wrap-around, RANGE by `MemAdmit`, else acceptance. What each answer writes is in the statements
`BufferNoop`, `BufferAccepted` and in this one for the rejections. -/
def Obligations.BufferChecksInOrder : Prop :=
  ∀ (s : State) (u : Block) (i : Instr), s.Idle u → 8 ≤ i.opcode.toNat →
    i.wf s.cfg.maxRules = true → (i = .bufmulti → u.ruleCount.toNat ≤ s.cfg.maxRules) →
    let noop := u.bufBase = 0 ∨ u.bufLen = 0 ∨ (i = .bufmulti ∧ u.ruleCount = 0)
    let odd := u.bufBase.toNat % 2 = 1
    let outside := 2 ^ 32 < u.bufBase.toNat + 2 * u.bufLen.toNat ∨
      ∃ a, u.bufBase.toNat ≤ a ∧ a < u.bufBase.toNat + 2 * u.bufLen.toNat ∧ s.cfg.memAdmit a = false
    (noop → ∃ t v, exec i s = .next t ∧ t.units[s.sel]? = some v ∧ v.status.busy = false ∧
      v.status.done = true ∧ v.status.err = u.status.err ∧ v.cmd = encode i) ∧
    (¬ noop → odd → exec i s = .next (s.setUnit
      { u with status := { u.status with err := true, errCode := 5, done := true } })) ∧
    (¬ noop → ¬ odd → outside → exec i s = .next (s.setUnit
      { u with status := { u.status with err := true, errCode := 6, done := true } })) ∧
    (¬ noop → ¬ odd → ¬ outside →
      ∃ t v, exec i s = .next t ∧ t.units[s.sel]? = some v ∧ v.status.busy = true ∧
        v.status.done = false ∧ v.status.err = u.status.err ∧ v.cmd = encode i)

/-- R173, R206: a null buffer, no pixels, or for BUFMULTI no rules: the command completes at once; the counters
are cleared and DONE is set. -/
def Obligations.BufferNoop : Prop :=
  ∀ (s : State) (u : Block) (i : Instr), s.Idle u → 8 ≤ i.opcode.toNat →
    i.wf s.cfg.maxRules = true → (i = .bufmulti → u.ruleCount.toNat ≤ s.cfg.maxRules) →
    u.bufBase = 0 ∨ u.bufLen = 0 ∨ (i = .bufmulti ∧ u.ruleCount = 0) →
    exec i s = .next (s.setUnit
      { u with cmd := encode i, progress := 0, matchCount := 0,
               status := { u.status with matched := false, hit := 0, done := true } })

/-- R172: `BUFSHIFT`, `BUFBAND r<i>` and `BUFMULTI` that pass every check start: BUSY is set, DONE, MATCH, HIT and the
counters are cleared, `CMD` holds the word; memory is not touched. `before` is the model's own copy of memory
(log 10), and going on after `UNIT_OVERLAP` is the model's choice (log 9). -/
def Obligations.BufferAccepted : Prop :=
  ∀ (s : State) (u : Block) (r : RuleIdx) (i : Instr), s.Idle u →
    i = .bufshift ∨ i = .bufband r ∨ i = .bufmulti →
    i.wf s.cfg.maxRules = true →
    (i = .bufmulti → u.ruleCount ≠ 0 ∧ u.ruleCount.toNat ≤ s.cfg.maxRules) →
    u.bufBase ≠ 0 → u.bufLen ≠ 0 → u.bufBase.toNat % 2 = 0 →
    u.bufBase.toNat + 2 * u.bufLen.toNat ≤ 2 ^ 32 →
    (∀ a, u.bufBase.toNat ≤ a → a < u.bufBase.toNat + 2 * u.bufLen.toNat →
      s.cfg.memAdmit a = true) →
    ∃ o, (o = true ↔ s.unitOverlap = true ∨ ∃ v ∈ s.units, v.status.busy = true ∧
            ∃ a, u.inBuffer a ∧ v.inBuffer a) ∧
      exec i s = .next
        { s with
            unitOverlap := o,
            units := s.units.set s.sel
              { u with cmd := encode i, progress := 0, matchCount := 0, before := s.mem,
                       status := { u.status with matched := false, hit := 0, done := false,
                                                 busy := true } } }

/-- The frame of the three buffer commands at issue (R172, R173, R33, R85), in every state where they answer:
no byte of memory is accessed, no other unit changes, and of the selected unit only `CMD`, `STATUS`,
`PROGRESS`, `MATCH_COUNT` and the model's `before` may change; WIGN changes only where BUSY was 1. -/
def Obligations.BufferIssueFrame : Prop :=
  ∀ (s t : State) (u : Block) (i : Instr), s.units[s.sel]? = some u → 8 ≤ i.opcode.toNat →
    exec i s = .next t →
    t.cfg = s.cfg ∧ (∀ a, Memory.byte t.mem a = Memory.byte s.mem a) ∧ t.hostRace = s.hostRace ∧
    t.agenda = s.agenda ∧ t.sel = s.sel ∧ t.hostData = s.hostData ∧ t.draws = s.draws ∧
    (∀ k, k ≠ s.sel → t.units[k]? = s.units[k]?) ∧
    ∃ v, t.units[s.sel]? = some v ∧
      v.pixIn = u.pixIn ∧ v.hsvIn = u.hsvIn ∧ v.pixOut = u.pixOut ∧ v.hsvOut = u.hsvOut ∧
      v.bufBase = u.bufBase ∧ v.bufLen = u.bufLen ∧ v.gHueShift = u.gHueShift ∧
      v.gSatShift = u.gSatShift ∧ v.ruleCount = u.ruleCount ∧ v.rules = u.rules ∧
      (u.status.busy = false → v.status.wign = u.status.wign)

/-! ## The engine -/

/-- R171, R174, R175, R211: an engine transition of the step is an engine step of that unit. With BUSY = 1 the engine step
reads the pixel at `BUF_BASE + 2*PROGRESS`, applies the function of the command, writes the pixel if it matches,
advances the counters, and after the last pixel clears BUSY and sets DONE. With BUSY = 0 it is not enabled (R174); that an
engine entry of the agenda then does nothing, and that with an empty agenda the first busy unit's engine goes on, is
the model's choice (log 3). -/
def Obligations.EngineStepResult : Prop :=
  ∀ (s : State) (k : Nat) (u : Block) (r : Adjusted), s.units[k]? = some u →
    (∀ rest, s.cfg.legal = true → s.agenda = .engine k :: rest →
      step s = State.engineStep { s with agenda := rest } k) ∧
    (s.cfg.legal = true → s.agenda = [] → u.status.busy = true →
      (∀ j v, j < k → s.units[j]? = some v → v.status.busy = false) →
      step s = s.engineStep k) ∧
    (u.status.busy = false → s.engineStep k = .next s) ∧
    (u.status.busy = true → u.progress.toNat < u.bufLen.toNat →
      let a := u.bufBase.toNat + 2 * u.progress.toNat
      s.cfg.memAdmit a = true → s.cfg.memAdmit (a + 1) = true →
      let p := Memory.readPixel s.cfg.byteOrder s.mem a
      ((opField u.cmd).toNat = 8 ∧
          r = adjustGlobal s.cfg.lutMode p u.gHueShift u.gSatShift.toInt ∨
       (opField u.cmd).toNat = 9 ∧
          r = adjustSingle s.cfg.lutMode p (u.ruleAt (ridxField u.cmd).toNat) ∨
       (opField u.cmd).toNat = 10 ∧
          r = adjustMulti s.cfg.lutMode p (u.rules.take u.ruleCount.toNat)) →
      ∃ t v, s.engineStep k = .next t ∧ t.units[k]? = some v ∧
        v.progress.toNat = u.progress.toNat + 1 ∧
        v.matchCount = (if r.matched then u.matchCount + 1 else u.matchCount) ∧
        Memory.readPixel s.cfg.byteOrder t.mem a = (if r.matched then r.pixel else p) ∧
        (r.matched = false → t.mem = s.mem) ∧
        (∀ b, b ≠ a → b ≠ a + 1 → Memory.byte t.mem b = Memory.byte s.mem b) ∧
        (if v.progress = u.bufLen then v.status.busy = false ∧ v.status.done = true
         else v.status.busy = true ∧ v.status.done = u.status.done))

/-- The frame of an engine step (R67, R171, R174, R175): of memory only the two bytes of the pixel at
`BUF_BASE + 2*PROGRESS` may change, and none where the pixel is not matched; of the unit only `PROGRESS`,
`MATCH_COUNT`, BUSY, DONE, and, once the unit is no longer busy, the model's `before` (log 10); nothing else of the
platform. -/
def Obligations.EngineStepFrame : Prop :=
  ∀ (s t : State) (k : Nat) (u : Block), s.units[k]? = some u → s.engineStep k = .next t →
    let a := u.ea u.progress.toNat
    let p := Memory.readPixel s.cfg.byteOrder s.mem a
    (∀ b, b ≠ a → b ≠ a + 1 → Memory.byte t.mem b = Memory.byte s.mem b) ∧
    (u.pixelMatched s.cfg.lutMode p = false → t.mem = s.mem) ∧
    t.cfg = s.cfg ∧ t.hostRace = s.hostRace ∧ t.unitOverlap = s.unitOverlap ∧
    t.agenda = s.agenda ∧ t.sel = s.sel ∧ t.hostData = s.hostData ∧ t.draws = s.draws ∧
    (∀ j, j ≠ k → t.units[j]? = s.units[j]?) ∧
    ∃ v, t.units[k]? = some v ∧
      v.cmd = u.cmd ∧ v.pixIn = u.pixIn ∧ v.hsvIn = u.hsvIn ∧ v.pixOut = u.pixOut ∧
      v.hsvOut = u.hsvOut ∧ v.bufBase = u.bufBase ∧ v.bufLen = u.bufLen ∧
      v.gHueShift = u.gHueShift ∧ v.gSatShift = u.gSatShift ∧ v.ruleCount = u.ruleCount ∧
      v.rules = u.rules ∧ v.status.err = u.status.err ∧ v.status.errCode = u.status.errCode ∧
      v.status.wign = u.status.wign ∧ v.status.matched = u.status.matched ∧
      v.status.hit = u.status.hit ∧ (v.status.busy = true → v.before = u.before)

/-- R207, R209: no error occurs after acceptance: in a state that meets the invariant no unit's engine is ever
stuck; its step gives a next state. -/
def Obligations.EngineNeverStuck : Prop :=
  ∀ (s : State) (k : Nat), s.Inv → k < s.units.length → ∃ t, s.engineStep k = .next t

/-- R177, R178, R231: `n` engine steps of a buffer command that has just started leave the first `n` pixels at
their final values, the other pixels of the buffer and every byte outside it as they were, `PROGRESS = n`
and `MATCH_COUNT` the number of matched pixels among them; BUSY is 0 exactly after `BUF_LEN` steps. The final
values are those of the memory at acceptance. -/
def Obligations.BufferAfterEngineSteps : Prop :=
  ∀ (s : State) (k : Nat) (u : Block) (n : Nat), s.Inv → s.units[k]? = some u →
    u.status.busy = true → u.progress = 0 → u.matchCount = 0 → n ≤ u.bufLen.toNat →
    let o := s.cfg.byteOrder
    ∃ t v, s.engineSteps k n = some t ∧ t.units[k]? = some v ∧
      v.progress.toNat = n ∧ (v.status.busy = false ↔ n = u.bufLen.toNat) ∧
      (v.status.done = true ↔ n = u.bufLen.toNat) ∧
      (∀ j, j < u.bufLen.toNat → Memory.readPixel o t.mem (u.bufBase.toNat + 2 * j) =
        (if j < n then
          u.pixelAfter s.cfg.lutMode (Memory.readPixel o s.mem (u.bufBase.toNat + 2 * j))
         else Memory.readPixel o s.mem (u.bufBase.toNat + 2 * j))) ∧
      (∀ a, ¬ u.inBuffer a → Memory.byte t.mem a = Memory.byte s.mem a) ∧
      v.matchCount.toNat = ((List.range n).filter fun j =>
        u.pixelMatched s.cfg.lutMode (Memory.readPixel o s.mem (u.bufBase.toNat + 2 * j))).length

/-- R179: a buffer command of length 1 writes the pixel that the single-pixel form computes into `PIX_OUT`, and
its `MATCH_COUNT` is 1 exactly when the single-pixel form sets MATCH. -/
def Obligations.BufferOfOneIsSinglePixel : Prop :=
  ∀ (s : State) (u : Block) (r : RuleIdx) (i j : Instr), s.Inv → s.Idle u →
    i = .bufshift ∧ j = .pxshift ∨ i = .bufband r ∧ j = .pxband r ∨
      i = .bufmulti ∧ j = .pxmulti →
    i.wf s.cfg.maxRules = true →
    (i = .bufmulti → u.ruleCount ≠ 0 ∧ u.ruleCount.toNat ≤ s.cfg.maxRules) →
    u.bufLen = 1 → u.bufBase ≠ 0 → u.bufBase.toNat % 2 = 0 → u.bufBase.toNat + 2 ≤ 2 ^ 32 →
    s.cfg.memAdmit u.bufBase.toNat = true → s.cfg.memAdmit (u.bufBase.toNat + 1) = true →
    u.pixIn = Memory.readPixel s.cfg.byteOrder s.mem u.bufBase.toNat →
    ∃ t t' q v w, exec i s = .next t ∧ t.engineStep s.sel = .next t' ∧ exec j s = .next q ∧
      t'.units[s.sel]? = some v ∧ q.units[s.sel]? = some w ∧ v.status.busy = false ∧
      Memory.readPixel s.cfg.byteOrder t'.mem u.bufBase.toNat = w.pixOut ∧
      v.matchCount.toNat = (if w.status.matched then 1 else 0)

/-- R211, R222: with no two active ranges overlapping, the engine steps of two busy units may be made in either order:
both orders give the same state. -/
def Obligations.EnginesCommute : Prop :=
  ∀ (s : State) (j k : Nat) (u v : Block), s.Inv → s.Disjoint → j ≠ k →
    s.units[j]? = some u → s.units[k]? = some v → u.status.busy = true → v.status.busy = true →
    ∃ a b t, s.engineStep j = .next a ∧ a.engineStep k = .next t ∧
      s.engineStep k = .next b ∧ b.engineStep j = .next t

/-! ## The register block -/

/-- R22: an 8-bit or 16-bit access, a misaligned one, or one outside every unit's 256 bytes is refused. -/
def Obligations.OtherAccessesRefused : Prop :=
  ∀ (s : State) (addr : Nat) (width : AccessWidth) (w : Word) (rest : List Event),
    s.cfg.legal = true →
    width = .b8 ∨ width = .b16 ∨ addr % 4 ≠ 0 ∨
      (∀ base ∈ s.cfg.regBases, addr < base ∨ base + 256 ≤ addr) →
    (s.agenda = .regWrite addr width w :: rest → step s = .refused .badAccess) ∧
    (s.agenda = .regRead addr width :: rest → step s = .refused .badAccess)

/-- R22, R23, R25: an aligned 32-bit write to any offset of a unit's block but `CMD` changes that unit's
registers alone, as `Block.writeAt` says; no byte of memory changes. -/
def Obligations.RegisterWriteReachesUnit : Prop :=
  ∀ (s : State) (k base off : Nat) (w : Word) (rest : List Event) (u : Block),
    s.cfg.legal = true → s.cfg.regBases[k]? = some base → s.units[k]? = some u →
    off < 256 → off % 4 = 0 → off ≠ 0x04 →
    s.agenda = .regWrite (base + off) .b32 w :: rest →
    step s = .next { s with agenda := rest, sel := k,
                            units := s.units.set k (u.writeAt s.cfg.maxRules off w) }

/-- R22, R28, R33, R36, R38: an aligned 32-bit read returns what `Block.readAt` gives for the offset and changes no
register and no byte of memory; and what it gives is, for every register but `STATUS` (see `StatusFieldPlaces`), the
fields of that register, each at its bits, with the reserved bits 0. `hostData` and `sel` are the model's
(logs 5 and 6). -/
def Obligations.RegisterReadReturns : Prop :=
  (∀ (s : State) (k base off : Nat) (rest : List Event) (u : Block),
    s.cfg.legal = true → s.cfg.regBases[k]? = some base → s.units[k]? = some u →
    off < 256 → off % 4 = 0 → s.agenda = .regRead (base + off) .b32 :: rest →
    step s = .next { s with agenda := rest, sel := k,
                            hostData := some (u.readAt s.cfg.maxRules off) }) ∧
  ∀ (n : Nat) (u : Block),
    u.readAt n 0x00 = 0x48535631 ∧ u.readAt n 0x04 = u.cmd ∧
    (u.readAt n 0x0C).extractLsb' 0 16 = u.pixIn ∧ (u.readAt n 0x0C).extractLsb' 16 16 = 0 ∧
    (u.readAt n 0x10).extractLsb' 0 8 = u.hsvIn.h ∧ (u.readAt n 0x10).extractLsb' 8 8 = u.hsvIn.s ∧
    (u.readAt n 0x10).extractLsb' 16 8 = u.hsvIn.v ∧ (u.readAt n 0x10).extractLsb' 24 8 = 0 ∧
    (u.readAt n 0x14).extractLsb' 0 16 = u.pixOut ∧ (u.readAt n 0x14).extractLsb' 16 16 = 0 ∧
    (u.readAt n 0x18).extractLsb' 0 8 = u.hsvOut.h ∧ (u.readAt n 0x18).extractLsb' 8 8 = u.hsvOut.s ∧
    (u.readAt n 0x18).extractLsb' 16 8 = u.hsvOut.v ∧ (u.readAt n 0x18).extractLsb' 24 8 = 0 ∧
    u.readAt n 0x1C = u.bufBase ∧ u.readAt n 0x20 = u.bufLen ∧
    (u.readAt n 0x24).extractLsb' 0 8 = u.gHueShift ∧ (u.readAt n 0x24).extractLsb' 8 8 = 0 ∧
    (u.readAt n 0x24).extractLsb' 16 16 = u.gSatShift ∧
    (u.readAt n 0x28).extractLsb' 0 8 = u.ruleCount ∧ (u.readAt n 0x28).extractLsb' 8 24 = 0 ∧
    u.readAt n 0x2C = u.matchCount ∧ u.readAt n 0x30 = u.progress ∧
    ∀ (i : Nat) (r : RuleSlot), i < n → u.rules[i]? = some r →
      (u.readAt n (0x40 + 8 * i)).extractLsb' 0 8 = r.target ∧
      (u.readAt n (0x40 + 8 * i)).extractLsb' 8 8 = r.hueShift ∧
      (u.readAt n (0x40 + 8 * i)).extractLsb' 16 8 = r.radius ∧
      (u.readAt n (0x40 + 8 * i)).extractLsb' 24 8 = 0 ∧
      (u.readAt n (0x44 + 8 * i)).extractLsb' 0 16 = r.satShift ∧
      (u.readAt n (0x44 + 8 * i)).extractLsb' 16 16 = 0

/-- R21, R23, R25: writes to `ID`, `PIX_OUT`, `HSV_OUT`, `MATCH_COUNT`, `PROGRESS` and to reserved offsets change
nothing, busy or not; `ID` reads 0x48535631 and reserved offsets read 0. -/
def Obligations.ReadOnlyAndReserved : Prop :=
  ∀ (n off : Nat) (u : Block) (w : Word), 1 ≤ n → n ≤ 16 → off < 256 → off % 4 = 0 →
    (off = 0x00 ∨ off = 0x14 ∨ off = 0x18 ∨ off = 0x2C ∨ off = 0x30 → u.writeAt n off w = u) ∧
    (off = 0x34 ∨ off = 0x38 ∨ off = 0x3C ∨ 0x40 + 8 * n ≤ off →
      u.writeAt n off w = u ∧ u.readAt n off = 0) ∧
    u.readAt n 0x00 = 0x48535631

/-- R26: while BUSY = 1 a write to `PIX_IN`, `HSV_IN`, `BUF_BASE`, `BUF_LEN`, `GSHIFT`, `RULE_COUNT`, a `RULE_A[i]` or a
`RULE_B[i]` sets WIGN and changes nothing else; and so does a write of any word to `CMD`. -/
def Obligations.BusyWritesIgnored : Prop :=
  ∀ (s : State) (k base off : Nat) (w : Word) (rest : List Event) (u : Block),
    s.cfg.legal = true → s.cfg.regBases[k]? = some base → s.units[k]? = some u →
    u.status.busy = true →
    off = 0x04 ∨ off = 0x0C ∨ off = 0x10 ∨ off = 0x1C ∨ off = 0x20 ∨ off = 0x24 ∨ off = 0x28 ∨
      (∃ i, i < s.cfg.maxRules ∧ (off = 0x40 + 8 * i ∨ off = 0x44 + 8 * i)) →
    s.agenda = .regWrite (base + off) .b32 w :: rest →
    step s = .next { s with agenda := rest, sel := k,
                            units := s.units.set k { u with status := { u.status with wign := true } } }

/-- R22, R24, R28, R34, R36: a write to each writable register of a unit that is not busy puts each field of the word into
that register and changes nothing else of the unit, neither another register nor another rule slot nor `STATUS`; and
the word that is then read is the one written with its reserved bits 0. -/
def Obligations.WrittenRegistersReadBack : Prop :=
  ∀ (n : Nat) (u : Block) (w : Word), n ≤ 16 → u.rules.length = n → u.status.busy = false →
    u.writeAt n 0x0C w = { u with pixIn := w.extractLsb' 0 16 } ∧
    (u.writeAt n 0x0C w).readAt n 0x0C = w &&& 0x0000FFFF ∧
    u.writeAt n 0x10 w = { u with hsvIn := { h := w.extractLsb' 0 8, s := w.extractLsb' 8 8,
                                             v := w.extractLsb' 16 8 } } ∧
    (u.writeAt n 0x10 w).readAt n 0x10 = w &&& 0x00FFFFFF ∧
    u.writeAt n 0x1C w = { u with bufBase := w } ∧ (u.writeAt n 0x1C w).readAt n 0x1C = w ∧
    u.writeAt n 0x20 w = { u with bufLen := w } ∧ (u.writeAt n 0x20 w).readAt n 0x20 = w ∧
    u.writeAt n 0x24 w = { u with gHueShift := w.extractLsb' 0 8, gSatShift := w.extractLsb' 16 16 } ∧
    (u.writeAt n 0x24 w).readAt n 0x24 = w &&& 0xFFFF00FF ∧
    u.writeAt n 0x28 w = { u with ruleCount := w.extractLsb' 0 8 } ∧
    (u.writeAt n 0x28 w).readAt n 0x28 = w &&& 0x000000FF ∧
    ∀ i, i < n → ∃ r, u.rules[i]? = some r ∧
      u.writeAt n (0x40 + 8 * i) w =
        { u with rules := u.rules.set i
                   { target := w.extractLsb' 0 8, hueShift := w.extractLsb' 8 8,
                     radius := w.extractLsb' 16 8, satShift := r.satShift } } ∧
      (u.writeAt n (0x40 + 8 * i) w).readAt n (0x40 + 8 * i) = w &&& 0x00FFFFFF ∧
      u.writeAt n (0x44 + 8 * i) w =
        { u with rules := u.rules.set i
                   { target := r.target, hueShift := r.hueShift, radius := r.radius,
                     satShift := w.extractLsb' 0 16 } } ∧
      (u.writeAt n (0x44 + 8 * i) w).readAt n (0x44 + 8 * i) = w &&& 0x0000FFFF

/-- R28: the places of the fields of `STATUS` in the word a read returns. -/
def Obligations.StatusFieldPlaces : Prop :=
  ∀ (n : Nat) (u : Block),
    let w := u.readAt n 0x08
    w.getLsbD 0 = u.status.busy ∧ w.getLsbD 1 = u.status.done ∧ w.getLsbD 2 = u.status.err ∧
    w.getLsbD 3 = u.status.wign ∧ w.extractLsb' 4 4 = u.status.errCode ∧
    w.getLsbD 8 = u.status.matched ∧ w.extractLsb' 9 3 = 0 ∧ w.extractLsb' 12 4 = u.status.hit ∧
    w.extractLsb' 16 16 = 0

/-- R30: a write of `w` to `STATUS`, busy or not: bits 1, 2 and 3 clear DONE, ERR with ERRCODE, and WIGN; nothing
else changes. -/
def Obligations.StatusWriteOneToClear : Prop :=
  ∀ (n : Nat) (u : Block) (w : Word),
    ∃ x, u.writeAt n 0x08 w = { u with status := x } ∧
      x.busy = u.status.busy ∧ x.matched = u.status.matched ∧ x.hit = u.status.hit ∧
      x.done = (if w.getLsbD 1 then false else u.status.done) ∧
      x.wign = (if w.getLsbD 3 then false else u.status.wign) ∧
      x.err = (if w.getLsbD 2 then false else u.status.err) ∧
      x.errCode = (if w.getLsbD 2 then 0 else u.status.errCode)

/-! ## Reset -/

/-- R28, R232: after reset every offset of the register block reads 0, but `ID`; the reset state of the model
has one such unit (log 2), no recorded fault and nothing written to memory. -/
def Obligations.ResetReadsZero : Prop :=
  (∀ n off, n ≤ 16 → off < 256 → off % 4 = 0 →
    (Block.reset n).readAt n off = (if off = 0 then 0x48535631 else 0)) ∧
  State.reset.units = [Block.reset 8] ∧ State.reset.mem = [] ∧ State.reset.faultFree = true

/-- R230, R231: reset of a unit, busy or not, gives it its reset registers; buffer memory stands as the engine left it,
parameters and recorded faults stay. That a reset is one unit's, and that the other units stay, is read from R222
(log 18). -/
def Obligations.ResetOfUnit : Prop :=
  ∀ (s : State) (k : Nat) (rest : List Event), s.cfg.legal = true → k < s.units.length →
    s.agenda = .reset k :: rest →
    ∃ t, step s = .next t ∧ t.units[k]? = some (Block.reset s.cfg.maxRules) ∧
      (∀ j, j ≠ k → t.units[j]? = s.units[j]?) ∧ t.mem = s.mem ∧ t.cfg = s.cfg ∧
      t.hostRace = s.hostRace ∧ t.unitOverlap = s.unitOverlap

/-- R233: after reset every command is legal, and what each does with the reset values of the registers. -/
def Obligations.FirstCommandsAfterReset : Prop :=
  ∀ (s : State) (u : Block), s.Idle u → u = Block.reset s.cfg.maxRules → 1 ≤ s.cfg.maxRules →
    (∀ i : Instr, i.wf s.cfg.maxRules = true →
      ∃ v, exec i s = .next (s.setUnit v) ∧ v.cmd = encode i ∧ v.status.done = true ∧
        v.status.err = false ∧ v.status.busy = false ∧
        (8 ≤ i.opcode.toNat → v = { u with cmd := encode i, status := { u.status with done := true } })) ∧
    ∃ z a b c d e f, exec .nop s = .next (s.setUnit z) ∧
      z = { u with status := { u.status with done := true } } ∧
      exec .rgb2hsv s = .next (s.setUnit a) ∧ a.hsvOut = Hsv.zero ∧
      exec .hsv2rgb s = .next (s.setUnit b) ∧ b.pixOut = 0 ∧
      exec .pxshift s = .next (s.setUnit c) ∧ c.pixOut = 0 ∧ c.hsvOut = Hsv.zero ∧
      exec (.inband 0) s = .next (s.setUnit d) ∧ d.status.matched = true ∧ d.status.hit = 0 ∧
      exec (.pxband 0) s = .next (s.setUnit e) ∧ e.status.matched = true ∧ e.status.hit = 0 ∧
      e.pixOut = 0 ∧
      exec .pxmulti s = .next (s.setUnit f) ∧ f.status.matched = false

/-! ## Buffer memory and the host -/

/-- R62, R63: in both byte orders a pixel that is written is read back, its bytes stand where the order says,
and no other byte changes. -/
def Obligations.PixelWriteThenRead : Prop :=
  ∀ (o : ByteOrder) (m : Memory) (a : Nat) (p : Pixel),
    let m' := Memory.writePixel o m a p
    Memory.readPixel o m' a = p ∧
    Memory.byte m' a = BitVec.ofNat 8 (if o = .little then p.toNat % 256 else p.toNat / 256) ∧
    Memory.byte m' (a + 1) = BitVec.ofNat 8 (if o = .little then p.toNat / 256 else p.toNat % 256) ∧
    ∀ b, b ≠ a → b ≠ a + 1 → Memory.byte m' b = Memory.byte m b

/-- R71: a host read of a pixel in the active range of a unit, no other busy unit's range holding it, returns the
value before the command or the value the command writes; the draw is free (log 10). -/
def Obligations.RacingReadOldOrNew : Prop :=
  ∀ (s : State) (k j : Nat) (u : Block) (rest : List Event), s.Inv → s.units[k]? = some u →
    u.status.busy = true → j < u.bufLen.toNat →
    (∀ i v, i ≠ k → s.units[i]? = some v → v.status.busy = true → u.overlaps v = false) →
    s.agenda = .memRead (u.ea j) :: rest →
    let old := Memory.readPixel s.cfg.byteOrder u.before (u.ea j)
    ∃ t, step s = .next t ∧ t.mem = s.mem ∧ t.units = s.units ∧ t.hostRace = s.hostRace ∧
      (t.hostData = some (old.setWidth 32) ∨
       t.hostData = some ((u.pixelAfter s.cfg.lutMode old).setWidth 32))

/-- R70, R241: outside every active range a host read returns what is in memory and a host write stores what it writes, with
no fault recorded and no other byte changed: for single bytes (log 12), and for a pixel with both bytes there. -/
def Obligations.HostAccessOutsideActiveRange : Prop :=
  ∀ (s : State) (a : Nat) (x : Byte) (p : Pixel) (rest : List Event), s.cfg.legal = true →
    s.cfg.memAdmit a = true → (∀ u ∈ s.units, u.status.busy = true → ¬ u.inBuffer a) →
    (s.agenda = .memReadByte a :: rest →
      ∃ t, step s = .next t ∧ t.mem = s.mem ∧ t.units = s.units ∧ t.hostRace = s.hostRace ∧
        t.unitOverlap = s.unitOverlap ∧ t.hostData = some ((Memory.byte s.mem a).setWidth 32)) ∧
    (s.agenda = .memWriteByte a x :: rest →
      ∃ t, step s = .next t ∧ t.units = s.units ∧ t.hostRace = s.hostRace ∧
        t.unitOverlap = s.unitOverlap ∧ Memory.byte t.mem a = x ∧
        ∀ b, b ≠ a → Memory.byte t.mem b = Memory.byte s.mem b) ∧
    (s.cfg.memAdmit (a + 1) = true →
      (∀ u ∈ s.units, u.status.busy = true → ¬ u.inBuffer (a + 1)) →
      (s.agenda = .memRead a :: rest →
        ∃ t, step s = .next t ∧ t.mem = s.mem ∧ t.units = s.units ∧ t.hostRace = s.hostRace ∧
          t.unitOverlap = s.unitOverlap ∧
          t.hostData = some ((Memory.readPixel s.cfg.byteOrder s.mem a).setWidth 32)) ∧
      (s.agenda = .memWrite a p :: rest →
        ∃ t, step s = .next t ∧ t.units = s.units ∧ t.hostRace = s.hostRace ∧
          t.unitOverlap = s.unitOverlap ∧ Memory.readPixel s.cfg.byteOrder t.mem a = p ∧
          ∀ b, b ≠ a → b ≠ a + 1 → Memory.byte t.mem b = Memory.byte s.mem b))

/-- R71, R212: a host write of a byte (log 12), or of a pixel with one or both of its bytes, into the active range of a
busy unit records `HOST_RACE`. The rest is the model's choice (log 8), for the spec defines no outcome: the run goes
on, no register and no byte but those written changes, and of a pixel a byte outside every active range is stored. -/
def Obligations.RacingWriteRecorded : Prop :=
  ∀ (s : State) (a : Nat) (b : Byte) (p : Pixel) (u : Block) (rest : List Event),
    s.cfg.legal = true → s.cfg.memAdmit a = true → u ∈ s.units → u.status.busy = true →
    (u.inBuffer a → s.agenda = .memWriteByte a b :: rest →
      ∃ t, step s = .next t ∧ t.hostRace = true ∧ t.units = s.units ∧
        t.unitOverlap = s.unitOverlap ∧ ∀ c, c ≠ a → Memory.byte t.mem c = Memory.byte s.mem c) ∧
    (s.cfg.memAdmit (a + 1) = true → u.inBuffer a ∨ u.inBuffer (a + 1) →
      s.agenda = .memWrite a p :: rest →
      ∃ t, step s = .next t ∧ t.hostRace = true ∧ t.units = s.units ∧
        t.unitOverlap = s.unitOverlap ∧
        (∀ c, c ≠ a → c ≠ a + 1 → Memory.byte t.mem c = Memory.byte s.mem c) ∧
        ∀ c, c = a ∨ c = a + 1 → (∀ v ∈ s.units, v.status.busy = true → ¬ v.inBuffer c) →
          Memory.byte t.mem c = Memory.byte (Memory.writePixel s.cfg.byteOrder s.mem a p) c)

/-! ## The numerics -/

/-- R102: each table entry is within 1 of the exact value, with the largest distance the rule gives for the mode
(15/31 and 30/63, or 21/31 and 45/63); the tables rise strictly from 0 to 255; they keep the top bits. -/
def Obligations.ExpansionTableLaws : Prop :=
  ∀ (m : LutMode),
    let d5 := fun v : Nat => (31 * (lut5 m v : Int) - 255 * v).natAbs
    let d6 := fun v : Nat => (63 * (lut6 m v : Int) - 255 * v).natAbs
    (∀ v, v < 32 → d5 v ≤ (if m = .round then 15 else 21) ∧ lut5 m v / 8 = v ∧ lut5 m v < 256 ∧
      (v + 1 < 32 → lut5 m v < lut5 m (v + 1))) ∧
    (∃ v, v < 32 ∧ d5 v = (if m = .round then 15 else 21)) ∧ lut5 m 0 = 0 ∧ lut5 m 31 = 255 ∧
    (∀ v, v < 64 → d6 v ≤ (if m = .round then 30 else 45) ∧ lut6 m v / 4 = v ∧ lut6 m v < 256 ∧
      (v + 1 < 64 → lut6 m v < lut6 m (v + 1))) ∧
    (∃ v, v < 64 ∧ d6 v = (if m = .round then 30 else 45)) ∧ lut6 m 0 = 0 ∧ lut6 m 63 = 255

/-- R104, R108(a), (b): V is the largest expanded channel; S is `255*d div mx`; it is 0 exactly when the three channels are
equal, and then H is 0. -/
def Obligations.ValueAndAchromatic : Prop :=
  ∀ (m : LutMode) (p : Pixel),
    let c := expand m p
    let x := rgb565ToHsv m p
    let mx := max c.r (max c.g c.b)
    let d := mx - min c.r (min c.g c.b)
    x.v.toNat = mx ∧
    (mx ≠ 0 → x.s.toNat * mx ≤ 255 * d ∧ 255 * d < (x.s.toNat + 1) * mx) ∧
    (x.s = 0 ↔ c.r = c.g ∧ c.g = c.b) ∧ (x.s = 0 → x.h = 0)

/-- R104, R105, R106, R108(d), by the channel that is largest, red before green before blue: for a pixel whose channels are
not all equal the hue, modulo 256, is the sector's offset plus 43 times the difference of the other two channels divided
by `d` and truncated toward zero; where it lies; 214 is never produced. -/
def Obligations.HueSectors : Prop :=
  ∀ (m : LutMode) (p : Pixel),
    let c := expand m p
    let h := (rgb565ToHsv m p).h.toNat
    let d := max c.r (max c.g c.b) - min c.r (min c.g c.b)
    let hue := fun (offset n : Int) => ∃ q : Int,
      q.natAbs * d ≤ n.natAbs ∧ n.natAbs < (q.natAbs + 1) * d ∧ (0 ≤ n → 0 ≤ q) ∧ (n ≤ 0 → q ≤ 0) ∧
      (h : Int) = (offset + q) % 256
    (c.g ≤ c.r ∧ c.b ≤ c.r → (213 ≤ h ∨ h ≤ 43) ∧ (d ≠ 0 → hue 0 (43 * ((c.g : Int) - c.b)))) ∧
    (c.r < c.g ∧ c.b ≤ c.g → 43 ≤ h ∧ h ≤ 128 ∧ hue 85 (43 * ((c.b : Int) - c.r))) ∧
    (c.r < c.b ∧ c.g < c.b → 129 ≤ h ∧ h ≤ 212 ∧ hue 171 (43 * ((c.r : Int) - c.g))) ∧ h ≠ 214

/-- R121(a), (b): the round trip is exact for achromatic pixels and changes no channel of any pixel by more than
2, in both modes; the bound 2 is reached. -/
def Obligations.RoundTripBound : Prop :=
  (∀ (m : LutMode) (p : Pixel),
    let q := hsvToRgb565 (rgb565ToHsv m p)
    ((rgb565ToHsv m p).s = 0 → q = p) ∧
    (((red5 p).toNat : Int) - (red5 q).toNat).natAbs ≤ 2 ∧
    (((green6 p).toNat : Int) - (green6 q).toNat).natAbs ≤ 2 ∧
    (((blue5 p).toNat : Int) - (blue5 q).toNat).natAbs ≤ 2) ∧
  hsvToRgb565 (rgb565ToHsv .round 0x0722) = 0x0720

/-- R115, R116, R117, R119: with S = 0 the pixel is the gray of V, whatever the hue. Else region and remainder of the hue
give the intermediates `p`, `q`, `t`, the sector table gives each channel 8 bits, and each channel of the pixel is their
top 5, 6 or 5. -/
def Obligations.GrayIgnoresHue : Prop :=
  ∀ (h s v : Byte),
    let x := hsvToRgb565 { h := h, s := s, v := v }
    let packs := fun (r g b : Nat) =>
      (red5 x).toNat = r / 8 ∧ (green6 x).toNat = g / 4 ∧ (blue5 x).toNat = b / 8
    let region := h.toNat / 43
    let rem := h.toNat % 43 * 6
    let p := v.toNat * (255 - s.toNat) / 256
    let q := v.toNat * (255 - s.toNat * rem / 256) / 256
    let t := v.toNat * (255 - s.toNat * (255 - rem) / 256) / 256
    (s = 0 → packs v.toNat v.toNat v.toNat) ∧
    (s ≠ 0 → region ≤ 5 ∧ rem ≤ 252 ∧
      (region = 0 → packs v.toNat t p) ∧ (region = 1 → packs q v.toNat p) ∧
      (region = 2 → packs p v.toNat t) ∧ (region = 3 → packs p q v.toNat) ∧
      (region = 4 → packs t p v.toNat) ∧ (region = 5 → packs v.toNat p q))

/-- R131: the laws (a) to (g) of `in_band`. -/
def Obligations.InBandLaws : Prop :=
  ∀ (h t r : Byte),
    let d := ((h.toNat : Int) - t.toNat).natAbs
    (inBand h t 0 = true ↔ h = t) ∧
    min d (256 - d) ≤ 128 ∧ (128 ≤ r.toNat → inBand h t r = true) ∧
    (inBand h t 127 = false ↔ h = t + 128) ∧
    inBand t t r = true ∧
    inBand h t r = inBand t h r ∧
    inBand (-h) (-t) r = inBand h t r ∧
    ∀ r' : Byte, r.toNat ≤ r'.toNat → inBand h t r = true → inBand h t r' = true

/-- R141, R142, R143: the hue wraps modulo 256, with HUE_SHIFT read as signed or as unsigned; the saturation is
clamped; the value is unchanged. -/
def Obligations.ShiftLaws : Prop :=
  ∀ (x : Hsv) (hs : Byte) (ss : BitVec 16),
    let y := shiftHsv x hs ss.toInt
    y.h.toNat = (x.h.toNat + hs.toNat) % 256 ∧
    (y.h.toNat : Int) = ((x.h.toNat : Int) + hs.toInt) % 256 ∧
    (y.s.toNat : Int) = max 0 (min 255 ((x.s.toNat : Int) + ss.toInt)) ∧
    (ss.toInt ≤ -255 → y.s = 0) ∧ (255 ≤ ss.toInt → y.s = 255) ∧ y.v = x.v

/-- R149: (a) an achromatic pixel shifted by `SAT_SHIFT ≤ 0` stays; (b) by `SAT_SHIFT > 0` it is re-encoded from the
shift alone, black stays black; (c) a saturation brought to 0 gives the gray of V; (d) of two rules that match the
first in the list is applied; (e) a list of one rule acts as that rule; (f) a radius of 128 or more acts as the
global shift. -/
def Obligations.AdjustLaws : Prop :=
  ∀ (m : LutMode) (p : Pixel) (hs : Byte) (ss : Int) (r r' : RuleSlot) (rs : List RuleSlot),
    let x := rgb565ToHsv m p
    (x.s = 0 → ss ≤ 0 → reencode m p hs ss = p) ∧
    (x.s = 0 → 0 < ss → reencode m p hs ss =
      hsvToRgb565 { h := hs, s := BitVec.ofInt 8 (min ss 255), v := x.v }) ∧
    reencode m 0xFFFF 0 100 = 0xFCD3 ∧ reencode m 0x0000 hs ss = 0x0000 ∧
    ((x.s.toNat : Int) + ss ≤ 0 → reencode m p hs ss = hsvToRgb565 { h := 0, s := 0, v := x.v }) ∧
    (r.covers m p = true → r'.covers m p = true →
      (adjustMulti m p (r :: r' :: rs)).pixel = reencode m p r.hueShift r.satShift.toInt ∧
      (adjustMulti m p (r' :: r :: rs)).pixel = reencode m p r'.hueShift r'.satShift.toInt) ∧
    (adjustMulti m p [r]).matched = (adjustSingle m p r).matched ∧
    (adjustMulti m p [r]).pixel = (adjustSingle m p r).pixel ∧
    (128 ≤ r.radius.toNat →
      (adjustGlobal m p r.hueShift r.satShift.toInt).pixel = (adjustSingle m p r).pixel)

/-! ## Every step -/

/-- The invariant holds after reset. -/
def Obligations.InvariantAtReset : Prop := State.reset.Inv

/-- Every step keeps the invariant, whatever the host, the engines and reset do and whatever the legal
parameters are: memory keeps its canonical form, each rule table its length, ERRCODE is 0 exactly while ERR is 0
(R29), a busy unit's buffer stays admitted and its next pixel inside it (R65, R66, R207). -/
def Obligations.StepKeepsInvariant : Prop :=
  ∀ (s t : State), s.Inv → step s = .next t → t.Inv

/-- R178, R231 as what every step keeps: while a unit is busy the pixels of its buffer below `PROGRESS` have the final
values, which the command makes of the memory it started on, the others still have the values from before the
command, and `MATCH_COUNT` counts the matched ones among the finished; unless a host write has raced (`HOST_RACE`). The
memory it started on is the model's `before` (log 10). -/
def Obligations.FinishedPixelsStayFinal : Prop :=
  ∀ (s t : State), s.Inv → s.Disjoint → (∀ u ∈ s.units, u.Progressed s.cfg s.mem) →
    step s = .next t → t.hostRace = false → ∀ u ∈ t.units, u.Progressed t.cfg t.mem

/-- R222: unless a step records `UNIT_OVERLAP`, the active ranges of busy units stay disjoint. -/
def Obligations.BusyRangesStayDisjoint : Prop :=
  ∀ (s t : State), s.Inv → s.Disjoint → step s = .next t → t.unitOverlap = false → t.Disjoint

/-- R212, R230(e), R230(f): no step changes a parameter or forgets a recorded fault. -/
def Obligations.ParametersAndFaultsStay : Prop :=
  ∀ (s t : State), step s = .next t →
    t.cfg = s.cfg ∧ t.units.length = s.units.length ∧ (s.hostRace = true → t.hostRace = true) ∧
    (s.unitOverlap = true → t.unitOverlap = true)

/-- R26, R40, R177: while a unit is busy, no step but its reset changes the command, its operands, the rule
table, the result registers or, while the unit stays busy, the model's copy of memory in `before` (log 10); BUSY falls
only when the engine has finished the last pixel. -/
def Obligations.NothingStopsARunningCommand : Prop :=
  ∀ (s t : State) (k : Nat) (u : Block), s.units[k]? = some u → u.status.busy = true →
    (∀ rest, s.agenda ≠ .reset k :: rest) → step s = .next t →
    ∃ v, t.units[k]? = some v ∧ v.cmd = u.cmd ∧ v.pixIn = u.pixIn ∧ v.hsvIn = u.hsvIn ∧
      v.pixOut = u.pixOut ∧ v.hsvOut = u.hsvOut ∧ v.bufBase = u.bufBase ∧ v.bufLen = u.bufLen ∧
      v.gHueShift = u.gHueShift ∧ v.gSatShift = u.gSatShift ∧ v.ruleCount = u.ruleCount ∧
      v.rules = u.rules ∧ v.status.matched = u.status.matched ∧ v.status.hit = u.status.hit ∧
      (v.status.busy = true → v.before = u.before) ∧
      (v.status.busy = true ∨ v.progress = v.bufLen ∧ v.status.done = true)

/-- R217: with no unit busy and no transition of the host to come, nothing changes. -/
def Obligations.IdlePlatformHolds : Prop :=
  ∀ (s : State), s.cfg.legal = true → s.agenda = [] → (∀ u ∈ s.units, u.status.busy = false) →
    step s = .next s

/-- R246, R177: with no transition of the host to come, every running command completes after finitely many steps. That
the engine then goes on is the model's form of weak fairness (log 3). -/
def Obligations.RunningCommandsComplete : Prop :=
  ∀ (s : State), s.Inv → s.agenda = [] →
    ∃ (n : Nat) (t : State), Host.Core.run Sys2Proof.core n s = .next t ∧
      ∀ u ∈ t.units, u.status.busy = false

/-- R212: with a parameter outside its legal values (R7) every step is refused. -/
def Obligations.IllegalParametersRefused : Prop :=
  ∀ (s : State),
    s.cfg.maxRules = 0 ∨ 16 < s.cfg.maxRules ∨ s.cfg.regBases = [] ∨
      (∃ b ∈ s.cfg.regBases, b % 256 ≠ 0 ∨ ∃ a, b ≤ a ∧ a < b + 256 ∧ s.cfg.memAdmit a = true) →
    step s = .refused .badParameter
end

