-- ==== Sys2Proof/Laws/Colour.lean ====
section
/-! SUPPORT. The search for the first matching rule (42_pixel_adjust.md R145, R146), the rules it runs over,
and the channels of a packed pixel (40_conversion.md R119). -/

namespace Sys2Proof.Machine

theorem firstMatch_some {m : LutMode} {p : Pixel} {rs : List RuleSlot} {k : Nat} {r : RuleSlot} (j : Nat)
    (h : rs[k]? = some r) (hc : r.covers m p = true)
    (hn : ∀ i r', i < k → rs[i]? = some r' → r'.covers m p = false) :
    firstMatch m p j rs = some (j + k, r) := by
  induction rs generalizing k j with
  | nil => simp at h
  | cons a rs ih =>
    cases k with
    | zero =>
      obtain rfl : a = r := by simpa using h
      simp [firstMatch, hc]
    | succ k =>
      have ha : a.covers m p = false := hn 0 a (Nat.succ_pos k) (by simp)
      rw [firstMatch, ha]
      simp only [Bool.false_eq_true, if_false]
      rw [ih (j + 1) (by simpa using h)
        fun i r' hi hr => hn (i + 1) r' (Nat.succ_lt_succ hi) (by simpa using hr)]
      congr 2
      omega

theorem firstMatch_none {m : LutMode} {p : Pixel} {rs : List RuleSlot} (j : Nat)
    (hn : ∀ r ∈ rs, r.covers m p = false) : firstMatch m p j rs = none := by
  induction rs generalizing j with
  | nil => rfl
  | cons a rs ih =>
    simp only [firstMatch, hn a (by simp), Bool.false_eq_true, if_false]
    exact ih _ fun r hr => hn r (by simp [hr])

/-- Slot `k` of the rule list is rule slot `k` (10_state.md R34, R35). -/
theorem Block.ruleList_get {u : Block} {k : Nat} (h : k < u.ruleCount.toNat) (h' : k < u.rules.length) :
    u.ruleList[k]? = some (u.ruleAt k) := by
  simp [Block.ruleList, Block.ruleAt, h, h']

/-- Every rule of the list is a slot below COUNT. -/
theorem Block.ruleList_mem {u : Block} {r : RuleSlot} (hr : r ∈ u.ruleList) :
    ∃ k, k < u.ruleCount.toNat ∧ k < u.rules.length ∧ r = u.ruleAt k := by
  obtain ⟨k, hk⟩ := List.getElem?_of_mem hr
  have hl := (List.getElem?_eq_some_iff.mp hk).1
  have hl : k < u.ruleCount.toNat ∧ k < u.rules.length := by
    simpa [Block.ruleList] using hl
  rw [Block.ruleList_get hl.1 hl.2] at hk
  exact ⟨k, hl.1, hl.2, (Option.some.inj hk).symm⟩

/-- The channels of a packed pixel are the top bits of the three 8-bit channels (40_conversion.md R119). -/
theorem pack_channels {r g b : Nat} (hr : r < 256) (hg : g < 256) (hb : b < 256) :
    (red5 (pack { r := r, g := g, b := b })).toNat = r / 8 ∧
      (green6 (pack { r := r, g := g, b := b })).toNat = g / 4 ∧
      (blue5 (pack { r := r, g := g, b := b })).toNat = b / 8 := by
  have h8 : ∀ r, r < 256 → r &&& 0xF8 = r / 8 * 8 := by decide +kernel
  have h4 : ∀ g, g < 256 → g &&& 0xFC = g / 4 * 4 := by decide +kernel
  have e : ((r &&& 0xF8) <<< 8) ||| ((g &&& 0xFC) <<< 3) ||| (b >>> 3) =
      r / 8 * 2048 + g / 4 * 32 + b / 8 := by
    rw [h8 r hr, h4 g hg, Nat.or_assoc, Nat.shiftRight_eq_div_pow,
      show (r / 8 * 8) <<< 8 = (r / 8) <<< 11 by simp [Nat.shiftLeft_eq]; omega,
      show (g / 4 * 4) <<< 3 = (g / 4) <<< 5 by simp [Nat.shiftLeft_eq]; omega,
      ← Nat.shiftLeft_add_eq_or_of_lt (show b / 2 ^ 3 < 2 ^ 5 by omega),
      ← Nat.shiftLeft_add_eq_or_of_lt
        (show (g / 4) <<< 5 + b / 2 ^ 3 < 2 ^ 11 by simp [Nat.shiftLeft_eq]; omega)]
    simp [Nat.shiftLeft_eq]
    omega
  unfold pack
  rw [e]
  simp only [red5, green6, blue5, BitVec.extractLsb'_toNat, BitVec.toNat_ofNat, Nat.shiftRight_eq_div_pow]
  omega

/-- Counting up to a length does not wrap (20_memory.md R61). -/
theorem succ_toNat {a b : Word} (h : a.toNat < b.toNat) : (a + 1).toNat = a.toNat + 1 := by
  have := b.isLt
  simp [BitVec.toNat_add]
  omega

/-- `BUF_BASE[0]` in numbers (20_memory.md R65). -/
theorem even_iff (w : Word) : w.getLsbD 0 = false ↔ w.toNat % 2 = 0 := by
  simp [BitVec.getLsbD, Nat.testBit_zero]

theorem Block.overlaps_comm (u v : Block) : u.overlaps v = v.overlaps u := by
  simp only [Block.overlaps, Nat.max_comm, Nat.min_comm]

/-- Two buffers overlap exactly when some address lies in both (60_exceptions.md R222). -/
theorem Block.overlaps_iff (u v : Block) :
    u.overlaps v = true ↔
      ∃ a, (u.bufBase.toNat ≤ a ∧ a < u.bufEnd) ∧ v.bufBase.toNat ≤ a ∧ a < v.bufEnd := by
  simp only [Block.overlaps, decide_eq_true_eq]
  constructor
  · intro h
    exact ⟨max u.bufBase.toNat v.bufBase.toNat, by omega⟩
  · rintro ⟨a, h⟩
    omega

end Sys2Proof.Machine
end

