-- ==== Sys2Proof/Laws/Decode.lean ====
section
/-! SUPPORT. The fields of command words: a word is its three fields, and `encode` puts each where it belongs
(30_encoding.md R81). -/

namespace Sys2Proof

theorem opField_toNat (w : Word) : (opField w).toNat = w.toNat % 16 := by
  simp [opField, BitVec.extractLsb'_toNat]

theorem ridxField_toNat (w : Word) : (ridxField w).toNat = w.toNat / 16 % 16 := by
  simp [ridxField, BitVec.extractLsb'_toNat, Nat.shiftRight_eq_div_pow]

theorem reservedField_toNat (w : Word) : (reservedField w).toNat = w.toNat / 256 := by
  have := w.isLt
  simp [reservedField, BitVec.extractLsb'_toNat, Nat.shiftRight_eq_div_pow]
  omega

theorem encode_toNat (i : Instr) : (encode i).toNat = i.opcode.toNat + 16 * i.ridx.toNat := by
  have h1 := i.opcode.isLt
  have h2 := i.ridx.isLt
  simp only [encode, BitVec.toNat_ofNat]
  omega

@[simp] theorem opField_encode (i : Instr) : opField (encode i) = i.opcode := by
  have h1 := i.opcode.isLt
  refine BitVec.eq_of_toNat_eq ?_
  rw [opField_toNat, encode_toNat]
  omega

@[simp] theorem ridxField_encode (i : Instr) : ridxField (encode i) = i.ridx := by
  have h1 := i.opcode.isLt
  have h2 := i.ridx.isLt
  refine BitVec.eq_of_toNat_eq ?_
  rw [ridxField_toNat, encode_toNat]
  omega

@[simp] theorem reservedField_encode (i : Instr) : reservedField (encode i) = 0 := by
  have h1 := i.opcode.isLt
  have h2 := i.ridx.isLt
  refine BitVec.eq_of_toNat_eq ?_
  rw [reservedField_toNat, encode_toNat]
  simp
  omega

@[simp] theorem opcodeMap_opcode (i : Instr) : opcodeMap i.opcode i.ridx = some i := by
  cases i <;> rfl

theorem Instr.ridx_unused {i : Instr} (h : i.usesRidx = false) : i.ridx = 0 := by
  cases i <;> first | rfl | cases h

/-- What the opcode map answers carries the opcode and, where it uses one, the index. -/
theorem opcodeMap_some {op : BitVec 4} {k : RuleIdx} {i : Instr} (h : opcodeMap op k = some i) :
    i.opcode = op ∧ (i.usesRidx = true → i.ridx = k) := by
  have key : ∀ op : Fin 16, opcodeMap (BitVec.ofFin op) k = some i →
      i.opcode = BitVec.ofFin op ∧ (i.usesRidx = true → i.ridx = k) := by
    intro op
    fin_cases op <;> simp [opcodeMap] <;> rintro rfl <;>
      simp [Instr.opcode, Instr.usesRidx, Instr.ridx]
  exact key op.toFin h

end Sys2Proof
end

