-- ==== Sys2Proof/Laws/State.lean ====
section
/-! SUPPORT. What each named update of a state, a unit and a STATUS leaves in each field, by computation. -/

namespace Sys2Proof.Machine

/-! Fields after `State.setUnit`. -/

@[simp] theorem State.setUnit_cfg (s : State) (u : Block) : (s.setUnit u).cfg = s.cfg := rfl
@[simp] theorem State.setUnit_units (s : State) (u : Block) : (s.setUnit u).units = s.units.set s.sel u := rfl
@[simp] theorem State.setUnit_mem (s : State) (u : Block) : (s.setUnit u).mem = s.mem := rfl
@[simp] theorem State.setUnit_hostRace (s : State) (u : Block) : (s.setUnit u).hostRace = s.hostRace := rfl
@[simp] theorem State.setUnit_unitOverlap (s : State) (u : Block) : (s.setUnit u).unitOverlap = s.unitOverlap := rfl
@[simp] theorem State.setUnit_agenda (s : State) (u : Block) : (s.setUnit u).agenda = s.agenda := rfl
@[simp] theorem State.setUnit_sel (s : State) (u : Block) : (s.setUnit u).sel = s.sel := rfl
@[simp] theorem State.setUnit_hostData (s : State) (u : Block) : (s.setUnit u).hostData = s.hostData := rfl
@[simp] theorem State.setUnit_draws (s : State) (u : Block) : (s.setUnit u).draws = s.draws := rfl

/-! Fields after `State.nextDraw`. -/

@[simp] theorem State.nextDraw_cfg (s : State) : (s.nextDraw).cfg = s.cfg := rfl
@[simp] theorem State.nextDraw_units (s : State) : (s.nextDraw).units = s.units := rfl
@[simp] theorem State.nextDraw_mem (s : State) : (s.nextDraw).mem = s.mem := rfl
@[simp] theorem State.nextDraw_hostRace (s : State) : (s.nextDraw).hostRace = s.hostRace := rfl
@[simp] theorem State.nextDraw_unitOverlap (s : State) : (s.nextDraw).unitOverlap = s.unitOverlap := rfl
@[simp] theorem State.nextDraw_agenda (s : State) : (s.nextDraw).agenda = s.agenda := rfl
@[simp] theorem State.nextDraw_sel (s : State) : (s.nextDraw).sel = s.sel := rfl
@[simp] theorem State.nextDraw_hostData (s : State) : (s.nextDraw).hostData = s.hostData := rfl
@[simp] theorem State.nextDraw_draws (s : State) : (s.nextDraw).draws = s.draws + 1 := rfl

/-! Fields after `State.placeCommand`. -/

@[simp] theorem State.placeCommand_cfg (s : State) (w : Word) : (s.placeCommand w).cfg = s.cfg := rfl
@[simp] theorem State.placeCommand_mem (s : State) (w : Word) : (s.placeCommand w).mem = s.mem := rfl
@[simp] theorem State.placeCommand_hostRace (s : State) (w : Word) : (s.placeCommand w).hostRace = s.hostRace := rfl
@[simp] theorem State.placeCommand_unitOverlap (s : State) (w : Word) : (s.placeCommand w).unitOverlap = s.unitOverlap := rfl
@[simp] theorem State.placeCommand_sel (s : State) (w : Word) : (s.placeCommand w).sel = s.sel := rfl
@[simp] theorem State.placeCommand_hostData (s : State) (w : Word) : (s.placeCommand w).hostData = s.hostData := rfl
@[simp] theorem State.placeCommand_draws (s : State) (w : Word) : (s.placeCommand w).draws = s.draws := rfl

/-! Fields after `Block.finish`. -/

@[simp] theorem Block.finish_cmd (u : Block) (m : Bool) (k : BitVec 4) : (u.finish m k).cmd = u.cmd := rfl
@[simp] theorem Block.finish_pixIn (u : Block) (m : Bool) (k : BitVec 4) : (u.finish m k).pixIn = u.pixIn := rfl
@[simp] theorem Block.finish_hsvIn (u : Block) (m : Bool) (k : BitVec 4) : (u.finish m k).hsvIn = u.hsvIn := rfl
@[simp] theorem Block.finish_pixOut (u : Block) (m : Bool) (k : BitVec 4) : (u.finish m k).pixOut = u.pixOut := rfl
@[simp] theorem Block.finish_hsvOut (u : Block) (m : Bool) (k : BitVec 4) : (u.finish m k).hsvOut = u.hsvOut := rfl
@[simp] theorem Block.finish_bufBase (u : Block) (m : Bool) (k : BitVec 4) : (u.finish m k).bufBase = u.bufBase := rfl
@[simp] theorem Block.finish_bufLen (u : Block) (m : Bool) (k : BitVec 4) : (u.finish m k).bufLen = u.bufLen := rfl
@[simp] theorem Block.finish_gHueShift (u : Block) (m : Bool) (k : BitVec 4) : (u.finish m k).gHueShift = u.gHueShift := rfl
@[simp] theorem Block.finish_gSatShift (u : Block) (m : Bool) (k : BitVec 4) : (u.finish m k).gSatShift = u.gSatShift := rfl
@[simp] theorem Block.finish_ruleCount (u : Block) (m : Bool) (k : BitVec 4) : (u.finish m k).ruleCount = u.ruleCount := rfl
@[simp] theorem Block.finish_rules (u : Block) (m : Bool) (k : BitVec 4) : (u.finish m k).rules = u.rules := rfl
@[simp] theorem Block.finish_matchCount (u : Block) (m : Bool) (k : BitVec 4) : (u.finish m k).matchCount = u.matchCount := rfl
@[simp] theorem Block.finish_progress (u : Block) (m : Bool) (k : BitVec 4) : (u.finish m k).progress = u.progress := rfl
@[simp] theorem Block.finish_before (u : Block) (m : Bool) (k : BitVec 4) : (u.finish m k).before = u.before := rfl
@[simp] theorem Block.finish_busy (u : Block) (m : Bool) (k : BitVec 4) :
    (u.finish m k).status.busy = u.status.busy := rfl
@[simp] theorem Block.finish_done (u : Block) (m : Bool) (k : BitVec 4) :
    (u.finish m k).status.done = true := rfl
@[simp] theorem Block.finish_err (u : Block) (m : Bool) (k : BitVec 4) :
    (u.finish m k).status.err = u.status.err := rfl
@[simp] theorem Block.finish_wign (u : Block) (m : Bool) (k : BitVec 4) :
    (u.finish m k).status.wign = u.status.wign := rfl
@[simp] theorem Block.finish_errCode (u : Block) (m : Bool) (k : BitVec 4) :
    (u.finish m k).status.errCode = u.status.errCode := rfl
@[simp] theorem Block.finish_matched (u : Block) (m : Bool) (k : BitVec 4) :
    (u.finish m k).status.matched = m := rfl
@[simp] theorem Block.finish_hit (u : Block) (m : Bool) (k : BitVec 4) :
    (u.finish m k).status.hit = k := rfl

/-! Fields after `Block.ignoreWrite`. -/

@[simp] theorem Block.ignoreWrite_cmd (u : Block) : (u.ignoreWrite).cmd = u.cmd := rfl
@[simp] theorem Block.ignoreWrite_pixIn (u : Block) : (u.ignoreWrite).pixIn = u.pixIn := rfl
@[simp] theorem Block.ignoreWrite_hsvIn (u : Block) : (u.ignoreWrite).hsvIn = u.hsvIn := rfl
@[simp] theorem Block.ignoreWrite_pixOut (u : Block) : (u.ignoreWrite).pixOut = u.pixOut := rfl
@[simp] theorem Block.ignoreWrite_hsvOut (u : Block) : (u.ignoreWrite).hsvOut = u.hsvOut := rfl
@[simp] theorem Block.ignoreWrite_bufBase (u : Block) : (u.ignoreWrite).bufBase = u.bufBase := rfl
@[simp] theorem Block.ignoreWrite_bufLen (u : Block) : (u.ignoreWrite).bufLen = u.bufLen := rfl
@[simp] theorem Block.ignoreWrite_gHueShift (u : Block) : (u.ignoreWrite).gHueShift = u.gHueShift := rfl
@[simp] theorem Block.ignoreWrite_gSatShift (u : Block) : (u.ignoreWrite).gSatShift = u.gSatShift := rfl
@[simp] theorem Block.ignoreWrite_ruleCount (u : Block) : (u.ignoreWrite).ruleCount = u.ruleCount := rfl
@[simp] theorem Block.ignoreWrite_rules (u : Block) : (u.ignoreWrite).rules = u.rules := rfl
@[simp] theorem Block.ignoreWrite_matchCount (u : Block) : (u.ignoreWrite).matchCount = u.matchCount := rfl
@[simp] theorem Block.ignoreWrite_progress (u : Block) : (u.ignoreWrite).progress = u.progress := rfl
@[simp] theorem Block.ignoreWrite_before (u : Block) : (u.ignoreWrite).before = u.before := rfl
@[simp] theorem Block.ignoreWrite_busy (u : Block) :
    (u.ignoreWrite).status.busy = u.status.busy := rfl
@[simp] theorem Block.ignoreWrite_done (u : Block) :
    (u.ignoreWrite).status.done = u.status.done := rfl
@[simp] theorem Block.ignoreWrite_err (u : Block) :
    (u.ignoreWrite).status.err = u.status.err := rfl
@[simp] theorem Block.ignoreWrite_wign (u : Block) :
    (u.ignoreWrite).status.wign = true := rfl
@[simp] theorem Block.ignoreWrite_errCode (u : Block) :
    (u.ignoreWrite).status.errCode = u.status.errCode := rfl
@[simp] theorem Block.ignoreWrite_matched (u : Block) :
    (u.ignoreWrite).status.matched = u.status.matched := rfl
@[simp] theorem Block.ignoreWrite_hit (u : Block) :
    (u.ignoreWrite).status.hit = u.status.hit := rfl

/-! Fields after `Block.reject`. -/

@[simp] theorem Block.reject_cmd (u : Block) (e : CmdError) : (u.reject e).cmd = u.cmd := rfl
@[simp] theorem Block.reject_pixIn (u : Block) (e : CmdError) : (u.reject e).pixIn = u.pixIn := rfl
@[simp] theorem Block.reject_hsvIn (u : Block) (e : CmdError) : (u.reject e).hsvIn = u.hsvIn := rfl
@[simp] theorem Block.reject_pixOut (u : Block) (e : CmdError) : (u.reject e).pixOut = u.pixOut := rfl
@[simp] theorem Block.reject_hsvOut (u : Block) (e : CmdError) : (u.reject e).hsvOut = u.hsvOut := rfl
@[simp] theorem Block.reject_bufBase (u : Block) (e : CmdError) : (u.reject e).bufBase = u.bufBase := rfl
@[simp] theorem Block.reject_bufLen (u : Block) (e : CmdError) : (u.reject e).bufLen = u.bufLen := rfl
@[simp] theorem Block.reject_gHueShift (u : Block) (e : CmdError) : (u.reject e).gHueShift = u.gHueShift := rfl
@[simp] theorem Block.reject_gSatShift (u : Block) (e : CmdError) : (u.reject e).gSatShift = u.gSatShift := rfl
@[simp] theorem Block.reject_ruleCount (u : Block) (e : CmdError) : (u.reject e).ruleCount = u.ruleCount := rfl
@[simp] theorem Block.reject_rules (u : Block) (e : CmdError) : (u.reject e).rules = u.rules := rfl
@[simp] theorem Block.reject_matchCount (u : Block) (e : CmdError) : (u.reject e).matchCount = u.matchCount := rfl
@[simp] theorem Block.reject_progress (u : Block) (e : CmdError) : (u.reject e).progress = u.progress := rfl
@[simp] theorem Block.reject_before (u : Block) (e : CmdError) : (u.reject e).before = u.before := rfl
@[simp] theorem Block.reject_busy (u : Block) (e : CmdError) :
    (u.reject e).status.busy = u.status.busy := rfl
@[simp] theorem Block.reject_done (u : Block) (e : CmdError) :
    (u.reject e).status.done = true := rfl
@[simp] theorem Block.reject_err (u : Block) (e : CmdError) :
    (u.reject e).status.err = true := rfl
@[simp] theorem Block.reject_wign (u : Block) (e : CmdError) :
    (u.reject e).status.wign = u.status.wign := rfl
@[simp] theorem Block.reject_errCode (u : Block) (e : CmdError) :
    (u.reject e).status.errCode = e.code := rfl
@[simp] theorem Block.reject_matched (u : Block) (e : CmdError) :
    (u.reject e).status.matched = u.status.matched := rfl
@[simp] theorem Block.reject_hit (u : Block) (e : CmdError) :
    (u.reject e).status.hit = u.status.hit := rfl

/-! Fields after `Block.writeStatus`. -/

@[simp] theorem Block.writeStatus_cmd (u : Block) (w : Word) : (u.writeStatus w).cmd = u.cmd := rfl
@[simp] theorem Block.writeStatus_pixIn (u : Block) (w : Word) : (u.writeStatus w).pixIn = u.pixIn := rfl
@[simp] theorem Block.writeStatus_hsvIn (u : Block) (w : Word) : (u.writeStatus w).hsvIn = u.hsvIn := rfl
@[simp] theorem Block.writeStatus_pixOut (u : Block) (w : Word) : (u.writeStatus w).pixOut = u.pixOut := rfl
@[simp] theorem Block.writeStatus_hsvOut (u : Block) (w : Word) : (u.writeStatus w).hsvOut = u.hsvOut := rfl
@[simp] theorem Block.writeStatus_bufBase (u : Block) (w : Word) : (u.writeStatus w).bufBase = u.bufBase := rfl
@[simp] theorem Block.writeStatus_bufLen (u : Block) (w : Word) : (u.writeStatus w).bufLen = u.bufLen := rfl
@[simp] theorem Block.writeStatus_gHueShift (u : Block) (w : Word) : (u.writeStatus w).gHueShift = u.gHueShift := rfl
@[simp] theorem Block.writeStatus_gSatShift (u : Block) (w : Word) : (u.writeStatus w).gSatShift = u.gSatShift := rfl
@[simp] theorem Block.writeStatus_ruleCount (u : Block) (w : Word) : (u.writeStatus w).ruleCount = u.ruleCount := rfl
@[simp] theorem Block.writeStatus_rules (u : Block) (w : Word) : (u.writeStatus w).rules = u.rules := rfl
@[simp] theorem Block.writeStatus_matchCount (u : Block) (w : Word) : (u.writeStatus w).matchCount = u.matchCount := rfl
@[simp] theorem Block.writeStatus_progress (u : Block) (w : Word) : (u.writeStatus w).progress = u.progress := rfl
@[simp] theorem Block.writeStatus_before (u : Block) (w : Word) : (u.writeStatus w).before = u.before := rfl
@[simp] theorem Block.writeStatus_busy (u : Block) (w : Word) :
    (u.writeStatus w).status.busy = u.status.busy := rfl
@[simp] theorem Block.writeStatus_done (u : Block) (w : Word) :
    (u.writeStatus w).status.done = (u.status.done && !w.getLsbD 1) := rfl
@[simp] theorem Block.writeStatus_err (u : Block) (w : Word) :
    (u.writeStatus w).status.err = (u.status.err && !w.getLsbD 2) := rfl
@[simp] theorem Block.writeStatus_wign (u : Block) (w : Word) :
    (u.writeStatus w).status.wign = (u.status.wign && !w.getLsbD 3) := rfl
@[simp] theorem Block.writeStatus_errCode (u : Block) (w : Word) :
    (u.writeStatus w).status.errCode = if w.getLsbD 2 then 0 else u.status.errCode := rfl
@[simp] theorem Block.writeStatus_matched (u : Block) (w : Word) :
    (u.writeStatus w).status.matched = u.status.matched := rfl
@[simp] theorem Block.writeStatus_hit (u : Block) (w : Word) :
    (u.writeStatus w).status.hit = u.status.hit := rfl

/-! Fields after `Block.acceptBuffer`. -/

@[simp] theorem Block.acceptBuffer_cmd (u : Block) (i : Instr) : (u.acceptBuffer i).cmd = encode i := rfl
@[simp] theorem Block.acceptBuffer_pixIn (u : Block) (i : Instr) : (u.acceptBuffer i).pixIn = u.pixIn := rfl
@[simp] theorem Block.acceptBuffer_hsvIn (u : Block) (i : Instr) : (u.acceptBuffer i).hsvIn = u.hsvIn := rfl
@[simp] theorem Block.acceptBuffer_pixOut (u : Block) (i : Instr) : (u.acceptBuffer i).pixOut = u.pixOut := rfl
@[simp] theorem Block.acceptBuffer_hsvOut (u : Block) (i : Instr) : (u.acceptBuffer i).hsvOut = u.hsvOut := rfl
@[simp] theorem Block.acceptBuffer_bufBase (u : Block) (i : Instr) : (u.acceptBuffer i).bufBase = u.bufBase := rfl
@[simp] theorem Block.acceptBuffer_bufLen (u : Block) (i : Instr) : (u.acceptBuffer i).bufLen = u.bufLen := rfl
@[simp] theorem Block.acceptBuffer_gHueShift (u : Block) (i : Instr) : (u.acceptBuffer i).gHueShift = u.gHueShift := rfl
@[simp] theorem Block.acceptBuffer_gSatShift (u : Block) (i : Instr) : (u.acceptBuffer i).gSatShift = u.gSatShift := rfl
@[simp] theorem Block.acceptBuffer_ruleCount (u : Block) (i : Instr) : (u.acceptBuffer i).ruleCount = u.ruleCount := rfl
@[simp] theorem Block.acceptBuffer_rules (u : Block) (i : Instr) : (u.acceptBuffer i).rules = u.rules := rfl
@[simp] theorem Block.acceptBuffer_matchCount (u : Block) (i : Instr) : (u.acceptBuffer i).matchCount = 0 := rfl
@[simp] theorem Block.acceptBuffer_progress (u : Block) (i : Instr) : (u.acceptBuffer i).progress = 0 := rfl
@[simp] theorem Block.acceptBuffer_before (u : Block) (i : Instr) : (u.acceptBuffer i).before = u.before := rfl
@[simp] theorem Block.acceptBuffer_busy (u : Block) (i : Instr) :
    (u.acceptBuffer i).status.busy = u.status.busy := rfl
@[simp] theorem Block.acceptBuffer_done (u : Block) (i : Instr) :
    (u.acceptBuffer i).status.done = u.status.done := rfl
@[simp] theorem Block.acceptBuffer_err (u : Block) (i : Instr) :
    (u.acceptBuffer i).status.err = u.status.err := rfl
@[simp] theorem Block.acceptBuffer_wign (u : Block) (i : Instr) :
    (u.acceptBuffer i).status.wign = u.status.wign := rfl
@[simp] theorem Block.acceptBuffer_errCode (u : Block) (i : Instr) :
    (u.acceptBuffer i).status.errCode = u.status.errCode := rfl
@[simp] theorem Block.acceptBuffer_matched (u : Block) (i : Instr) :
    (u.acceptBuffer i).status.matched = false := rfl
@[simp] theorem Block.acceptBuffer_hit (u : Block) (i : Instr) :
    (u.acceptBuffer i).status.hit = 0 := rfl

/-! Fields after `Block.noopBuffer`. -/

@[simp] theorem Block.noopBuffer_cmd (u : Block) (i : Instr) : (u.noopBuffer i).cmd = encode i := rfl
@[simp] theorem Block.noopBuffer_pixIn (u : Block) (i : Instr) : (u.noopBuffer i).pixIn = u.pixIn := rfl
@[simp] theorem Block.noopBuffer_hsvIn (u : Block) (i : Instr) : (u.noopBuffer i).hsvIn = u.hsvIn := rfl
@[simp] theorem Block.noopBuffer_pixOut (u : Block) (i : Instr) : (u.noopBuffer i).pixOut = u.pixOut := rfl
@[simp] theorem Block.noopBuffer_hsvOut (u : Block) (i : Instr) : (u.noopBuffer i).hsvOut = u.hsvOut := rfl
@[simp] theorem Block.noopBuffer_bufBase (u : Block) (i : Instr) : (u.noopBuffer i).bufBase = u.bufBase := rfl
@[simp] theorem Block.noopBuffer_bufLen (u : Block) (i : Instr) : (u.noopBuffer i).bufLen = u.bufLen := rfl
@[simp] theorem Block.noopBuffer_gHueShift (u : Block) (i : Instr) : (u.noopBuffer i).gHueShift = u.gHueShift := rfl
@[simp] theorem Block.noopBuffer_gSatShift (u : Block) (i : Instr) : (u.noopBuffer i).gSatShift = u.gSatShift := rfl
@[simp] theorem Block.noopBuffer_ruleCount (u : Block) (i : Instr) : (u.noopBuffer i).ruleCount = u.ruleCount := rfl
@[simp] theorem Block.noopBuffer_rules (u : Block) (i : Instr) : (u.noopBuffer i).rules = u.rules := rfl
@[simp] theorem Block.noopBuffer_matchCount (u : Block) (i : Instr) : (u.noopBuffer i).matchCount = 0 := rfl
@[simp] theorem Block.noopBuffer_progress (u : Block) (i : Instr) : (u.noopBuffer i).progress = 0 := rfl
@[simp] theorem Block.noopBuffer_before (u : Block) (i : Instr) : (u.noopBuffer i).before = u.before := rfl
@[simp] theorem Block.noopBuffer_busy (u : Block) (i : Instr) :
    (u.noopBuffer i).status.busy = u.status.busy := rfl
@[simp] theorem Block.noopBuffer_done (u : Block) (i : Instr) :
    (u.noopBuffer i).status.done = true := rfl
@[simp] theorem Block.noopBuffer_err (u : Block) (i : Instr) :
    (u.noopBuffer i).status.err = u.status.err := rfl
@[simp] theorem Block.noopBuffer_wign (u : Block) (i : Instr) :
    (u.noopBuffer i).status.wign = u.status.wign := rfl
@[simp] theorem Block.noopBuffer_errCode (u : Block) (i : Instr) :
    (u.noopBuffer i).status.errCode = u.status.errCode := rfl
@[simp] theorem Block.noopBuffer_matched (u : Block) (i : Instr) :
    (u.noopBuffer i).status.matched = false := rfl
@[simp] theorem Block.noopBuffer_hit (u : Block) (i : Instr) :
    (u.noopBuffer i).status.hit = 0 := rfl

/-! Fields after `Block.startBuffer`. -/

@[simp] theorem Block.startBuffer_cmd (u : Block) (i : Instr) (mem : Memory) : (u.startBuffer i mem).cmd = encode i := rfl
@[simp] theorem Block.startBuffer_pixIn (u : Block) (i : Instr) (mem : Memory) : (u.startBuffer i mem).pixIn = u.pixIn := rfl
@[simp] theorem Block.startBuffer_hsvIn (u : Block) (i : Instr) (mem : Memory) : (u.startBuffer i mem).hsvIn = u.hsvIn := rfl
@[simp] theorem Block.startBuffer_pixOut (u : Block) (i : Instr) (mem : Memory) : (u.startBuffer i mem).pixOut = u.pixOut := rfl
@[simp] theorem Block.startBuffer_hsvOut (u : Block) (i : Instr) (mem : Memory) : (u.startBuffer i mem).hsvOut = u.hsvOut := rfl
@[simp] theorem Block.startBuffer_bufBase (u : Block) (i : Instr) (mem : Memory) : (u.startBuffer i mem).bufBase = u.bufBase := rfl
@[simp] theorem Block.startBuffer_bufLen (u : Block) (i : Instr) (mem : Memory) : (u.startBuffer i mem).bufLen = u.bufLen := rfl
@[simp] theorem Block.startBuffer_gHueShift (u : Block) (i : Instr) (mem : Memory) : (u.startBuffer i mem).gHueShift = u.gHueShift := rfl
@[simp] theorem Block.startBuffer_gSatShift (u : Block) (i : Instr) (mem : Memory) : (u.startBuffer i mem).gSatShift = u.gSatShift := rfl
@[simp] theorem Block.startBuffer_ruleCount (u : Block) (i : Instr) (mem : Memory) : (u.startBuffer i mem).ruleCount = u.ruleCount := rfl
@[simp] theorem Block.startBuffer_rules (u : Block) (i : Instr) (mem : Memory) : (u.startBuffer i mem).rules = u.rules := rfl
@[simp] theorem Block.startBuffer_matchCount (u : Block) (i : Instr) (mem : Memory) : (u.startBuffer i mem).matchCount = 0 := rfl
@[simp] theorem Block.startBuffer_progress (u : Block) (i : Instr) (mem : Memory) : (u.startBuffer i mem).progress = 0 := rfl
@[simp] theorem Block.startBuffer_before (u : Block) (i : Instr) (mem : Memory) : (u.startBuffer i mem).before = mem := rfl
@[simp] theorem Block.startBuffer_busy (u : Block) (i : Instr) (mem : Memory) :
    (u.startBuffer i mem).status.busy = true := rfl
@[simp] theorem Block.startBuffer_done (u : Block) (i : Instr) (mem : Memory) :
    (u.startBuffer i mem).status.done = false := rfl
@[simp] theorem Block.startBuffer_err (u : Block) (i : Instr) (mem : Memory) :
    (u.startBuffer i mem).status.err = u.status.err := rfl
@[simp] theorem Block.startBuffer_wign (u : Block) (i : Instr) (mem : Memory) :
    (u.startBuffer i mem).status.wign = u.status.wign := rfl
@[simp] theorem Block.startBuffer_errCode (u : Block) (i : Instr) (mem : Memory) :
    (u.startBuffer i mem).status.errCode = u.status.errCode := rfl
@[simp] theorem Block.startBuffer_matched (u : Block) (i : Instr) (mem : Memory) :
    (u.startBuffer i mem).status.matched = false := rfl
@[simp] theorem Block.startBuffer_hit (u : Block) (i : Instr) (mem : Memory) :
    (u.startBuffer i mem).status.hit = 0 := rfl

/-! Fields after `Block.afterPixel`. -/

@[simp] theorem Block.afterPixel_cmd (u : Block) (m : Bool) : (u.afterPixel m).cmd = u.cmd := rfl
@[simp] theorem Block.afterPixel_pixIn (u : Block) (m : Bool) : (u.afterPixel m).pixIn = u.pixIn := rfl
@[simp] theorem Block.afterPixel_hsvIn (u : Block) (m : Bool) : (u.afterPixel m).hsvIn = u.hsvIn := rfl
@[simp] theorem Block.afterPixel_pixOut (u : Block) (m : Bool) : (u.afterPixel m).pixOut = u.pixOut := rfl
@[simp] theorem Block.afterPixel_hsvOut (u : Block) (m : Bool) : (u.afterPixel m).hsvOut = u.hsvOut := rfl
@[simp] theorem Block.afterPixel_bufBase (u : Block) (m : Bool) : (u.afterPixel m).bufBase = u.bufBase := rfl
@[simp] theorem Block.afterPixel_bufLen (u : Block) (m : Bool) : (u.afterPixel m).bufLen = u.bufLen := rfl
@[simp] theorem Block.afterPixel_gHueShift (u : Block) (m : Bool) : (u.afterPixel m).gHueShift = u.gHueShift := rfl
@[simp] theorem Block.afterPixel_gSatShift (u : Block) (m : Bool) : (u.afterPixel m).gSatShift = u.gSatShift := rfl
@[simp] theorem Block.afterPixel_ruleCount (u : Block) (m : Bool) : (u.afterPixel m).ruleCount = u.ruleCount := rfl
@[simp] theorem Block.afterPixel_rules (u : Block) (m : Bool) : (u.afterPixel m).rules = u.rules := rfl
@[simp] theorem Block.afterPixel_matchCount (u : Block) (m : Bool) : (u.afterPixel m).matchCount = if m then u.matchCount + 1 else u.matchCount := rfl
@[simp] theorem Block.afterPixel_progress (u : Block) (m : Bool) : (u.afterPixel m).progress = u.progress + 1 := rfl
@[simp] theorem Block.afterPixel_before (u : Block) (m : Bool) : (u.afterPixel m).before = if u.progress + 1 == u.bufLen then [] else u.before := rfl
@[simp] theorem Block.afterPixel_busy (u : Block) (m : Bool) :
    (u.afterPixel m).status.busy = !(u.progress + 1 == u.bufLen) := rfl
@[simp] theorem Block.afterPixel_done (u : Block) (m : Bool) :
    (u.afterPixel m).status.done = (u.status.done || (u.progress + 1 == u.bufLen)) := rfl
@[simp] theorem Block.afterPixel_err (u : Block) (m : Bool) :
    (u.afterPixel m).status.err = u.status.err := rfl
@[simp] theorem Block.afterPixel_wign (u : Block) (m : Bool) :
    (u.afterPixel m).status.wign = u.status.wign := rfl
@[simp] theorem Block.afterPixel_errCode (u : Block) (m : Bool) :
    (u.afterPixel m).status.errCode = u.status.errCode := rfl
@[simp] theorem Block.afterPixel_matched (u : Block) (m : Bool) :
    (u.afterPixel m).status.matched = u.status.matched := rfl
@[simp] theorem Block.afterPixel_hit (u : Block) (m : Bool) :
    (u.afterPixel m).status.hit = u.status.hit := rfl

/-! Fields after `Block.adjustOut`. -/

@[simp] theorem Block.adjustOut_cmd (u : Block) (m : LutMode) (q : Pixel) : (u.adjustOut m q).cmd = u.cmd := rfl
@[simp] theorem Block.adjustOut_pixIn (u : Block) (m : LutMode) (q : Pixel) : (u.adjustOut m q).pixIn = u.pixIn := rfl
@[simp] theorem Block.adjustOut_hsvIn (u : Block) (m : LutMode) (q : Pixel) : (u.adjustOut m q).hsvIn = u.hsvIn := rfl
@[simp] theorem Block.adjustOut_pixOut (u : Block) (m : LutMode) (q : Pixel) : (u.adjustOut m q).pixOut = q := rfl
@[simp] theorem Block.adjustOut_hsvOut (u : Block) (m : LutMode) (q : Pixel) : (u.adjustOut m q).hsvOut = rgb565ToHsv m u.pixIn := rfl
@[simp] theorem Block.adjustOut_bufBase (u : Block) (m : LutMode) (q : Pixel) : (u.adjustOut m q).bufBase = u.bufBase := rfl
@[simp] theorem Block.adjustOut_bufLen (u : Block) (m : LutMode) (q : Pixel) : (u.adjustOut m q).bufLen = u.bufLen := rfl
@[simp] theorem Block.adjustOut_gHueShift (u : Block) (m : LutMode) (q : Pixel) : (u.adjustOut m q).gHueShift = u.gHueShift := rfl
@[simp] theorem Block.adjustOut_gSatShift (u : Block) (m : LutMode) (q : Pixel) : (u.adjustOut m q).gSatShift = u.gSatShift := rfl
@[simp] theorem Block.adjustOut_ruleCount (u : Block) (m : LutMode) (q : Pixel) : (u.adjustOut m q).ruleCount = u.ruleCount := rfl
@[simp] theorem Block.adjustOut_rules (u : Block) (m : LutMode) (q : Pixel) : (u.adjustOut m q).rules = u.rules := rfl
@[simp] theorem Block.adjustOut_matchCount (u : Block) (m : LutMode) (q : Pixel) : (u.adjustOut m q).matchCount = u.matchCount := rfl
@[simp] theorem Block.adjustOut_progress (u : Block) (m : LutMode) (q : Pixel) : (u.adjustOut m q).progress = u.progress := rfl
@[simp] theorem Block.adjustOut_before (u : Block) (m : LutMode) (q : Pixel) : (u.adjustOut m q).before = u.before := rfl
@[simp] theorem Block.adjustOut_busy (u : Block) (m : LutMode) (q : Pixel) :
    (u.adjustOut m q).status.busy = u.status.busy := rfl
@[simp] theorem Block.adjustOut_done (u : Block) (m : LutMode) (q : Pixel) :
    (u.adjustOut m q).status.done = u.status.done := rfl
@[simp] theorem Block.adjustOut_err (u : Block) (m : LutMode) (q : Pixel) :
    (u.adjustOut m q).status.err = u.status.err := rfl
@[simp] theorem Block.adjustOut_wign (u : Block) (m : LutMode) (q : Pixel) :
    (u.adjustOut m q).status.wign = u.status.wign := rfl
@[simp] theorem Block.adjustOut_errCode (u : Block) (m : LutMode) (q : Pixel) :
    (u.adjustOut m q).status.errCode = u.status.errCode := rfl
@[simp] theorem Block.adjustOut_matched (u : Block) (m : LutMode) (q : Pixel) :
    (u.adjustOut m q).status.matched = u.status.matched := rfl
@[simp] theorem Block.adjustOut_hit (u : Block) (m : LutMode) (q : Pixel) :
    (u.adjustOut m q).status.hit = u.status.hit := rfl

end Sys2Proof.Machine
end

