-- ==== Sys2Proof/Laws/Issue.lean ====
section
/-! SUPPORT. Everything that the issue of a command can do, said once per shared operation. -/

namespace Sys2Proof.Machine

theorem State.issueTo_busy {s : State} {u : Block} (i : Instr)
    (f : Block → Host.Outcome State Fault Refusal) (hu : s.units[s.sel]? = some u)
    (hb : u.status.busy = true) : s.issueTo i f = .next (s.setUnit u.ignoreWrite) := by
  simp [State.issueTo, hu, hb]

theorem State.issueTo_reject {s : State} {u : Block} {i : Instr} {e : CmdError}
    (f : Block → Host.Outcome State Fault Refusal) (hu : s.units[s.sel]? = some u)
    (hb : u.status.busy = false) (he : u.issueError s.cfg.maxRules i = some e) :
    s.issueTo i f = .next (s.setUnit (u.reject e)) := by
  simp [State.issueTo, hu, hb, he]

theorem State.issueTo_accept {s : State} {u : Block} {i : Instr}
    (f : Block → Host.Outcome State Fault Refusal) (hu : s.units[s.sel]? = some u)
    (hb : u.status.busy = false) (he : u.issueError s.cfg.maxRules i = none) :
    s.issueTo i f = f u := by
  simp [State.issueTo, hu, hb, he]

/-- No check fails for a well-formed command that does not use the rules. -/
theorem Block.issueError_none {u : Block} {n : Nat} {i : Instr} (hw : i.wf n = true)
    (hc : usesRuleCount i = true → u.ruleCount.toNat ≤ n) : u.issueError n i = none := by
  unfold Block.issueError
  rw [hw]
  cases hr : usesRuleCount i with
  | false => simp
  | true => simpa using hc hr

/-- The three ways in which issue answers a next state. -/
theorem State.issueTo_cases {s t : State} {i : Instr}
    {f : Block → Host.Outcome State Fault Refusal} (h : s.issueTo i f = .next t) :
    ∃ u, s.units[s.sel]? = some u ∧
      (u.status.busy = true ∧ t = s.setUnit u.ignoreWrite ∨
       u.status.busy = false ∧ (∃ e, u.issueError s.cfg.maxRules i = some e ∧ t = s.setUnit (u.reject e)) ∨
       u.status.busy = false ∧ u.issueError s.cfg.maxRules i = none ∧ f u = .next t) := by
  unfold State.issueTo at h
  split at h
  · cases h
  · rename_i u hu
    refine ⟨u, hu, ?_⟩
    split at h
    · rename_i hb
      exact .inl ⟨hb, (Host.Outcome.next.inj h).symm⟩
    · rename_i hb
      have hb : u.status.busy = false := by simpa using hb
      split at h
      · rename_i e he
        exact .inr (.inl ⟨hb, e, he, (Host.Outcome.next.inj h).symm⟩)
      · rename_i he
        exact .inr (.inr ⟨hb, he, h⟩)

/-- What `exec` leaves of the selected unit `u` and of `UNIT_OVERLAP`, by the way the command is answered. -/
inductive Issued (s : State) (i : Instr) (u : Block) : Block → Bool → Prop where
  | ignored (hb : u.status.busy = true) : Issued s i u u.ignoreWrite s.unitOverlap
  | rejected (hb : u.status.busy = false) (e : CmdError)
      (he : u.issueError s.cfg.maxRules i = some e ∨ u.issueError s.cfg.maxRules i = none ∧
        8 ≤ i.opcode.toNat ∧ u.bufferCheck s.cfg i = .rejected e) :
      Issued s i u (u.reject e) s.unitOverlap
  | single (hb : u.status.busy = false) (he : u.issueError s.cfg.maxRules i = none)
      (ho : i.opcode.toNat ≤ 6) (x : Hsv) (q : Pixel) (m : Bool) (k : BitVec 4)
      (hk : m = false → k = 0)
      (hq : i.opcode = 0 ∨ i.opcode = 1 ∨ i.opcode = 3 → q = u.pixOut)
      (hx : i.opcode = 0 ∨ i.opcode = 2 ∨ i.opcode = 3 → x = u.hsvOut) :
      Issued s i u (Block.finish { u with cmd := encode i, hsvOut := x, pixOut := q } m k) s.unitOverlap
  | noop (hb : u.status.busy = false) (he : u.issueError s.cfg.maxRules i = none)
      (ho : 8 ≤ i.opcode.toNat) (hc : u.bufferCheck s.cfg i = .noop) :
      Issued s i u (u.noopBuffer i) s.unitOverlap
  | started (hb : u.status.busy = false) (he : u.issueError s.cfg.maxRules i = none)
      (ho : 8 ≤ i.opcode.toNat) (hc : u.bufferCheck s.cfg i = .run) :
      Issued s i u (u.startBuffer i s.mem) (s.unitOverlap || s.overlapsBusy u)

/-- A single-pixel command whose body ends in `finish`. -/
theorem State.runSingle_issued {s t : State} {i : Instr} {body : Block → Block}
    (h : s.runSingle i body = .next t) (ho : i.opcode.toNat ≤ 6)
    (hbody : ∀ u : Block, ∃ x q m k, body { u with cmd := encode i } =
        Block.finish { u with cmd := encode i, hsvOut := x, pixOut := q } m k ∧ (m = false → k = 0) ∧
        (i.opcode = 0 ∨ i.opcode = 1 ∨ i.opcode = 3 → q = u.pixOut) ∧
        (i.opcode = 0 ∨ i.opcode = 2 ∨ i.opcode = 3 → x = u.hsvOut)) :
    ∃ u v o, s.units[s.sel]? = some u ∧ Issued s i u v o ∧ t = { s.setUnit v with unitOverlap := o } := by
  obtain ⟨u, hu, h⟩ := State.issueTo_cases h
  rcases h with ⟨hb, rfl⟩ | ⟨hb, e, he, rfl⟩ | ⟨hb, he, h⟩
  · exact ⟨u, _, _, hu, .ignored hb, rfl⟩
  · exact ⟨u, _, _, hu, .rejected hb e (.inl he), rfl⟩
  · obtain ⟨x, q, m, k, hx, hk, hq, hh⟩ := hbody u
    refine ⟨u, _, _, hu, .single hb he ho x q m k hk hq hh, ?_⟩
    rw [← hx, ← Host.Outcome.next.inj h]; rfl

theorem State.runBuffer_issued {s t : State} {i : Instr} (h : s.runBuffer i = .next t)
    (ho : 8 ≤ i.opcode.toNat) :
    ∃ u v o, s.units[s.sel]? = some u ∧ Issued s i u v o ∧ t = { s.setUnit v with unitOverlap := o } := by
  obtain ⟨u, hu, h⟩ := State.issueTo_cases h
  rcases h with ⟨hb, rfl⟩ | ⟨hb, e, he, rfl⟩ | ⟨hb, he, h⟩
  · exact ⟨u, _, _, hu, .ignored hb, rfl⟩
  · exact ⟨u, _, _, hu, .rejected hb e (.inl he), rfl⟩
  · split at h
    · rename_i hc
      exact ⟨u, _, _, hu, .noop hb he ho hc, by rw [← Host.Outcome.next.inj h]; rfl⟩
    · rename_i e hc
      exact ⟨u, _, _, hu, .rejected hb e (.inr ⟨he, ho, hc⟩), by rw [← Host.Outcome.next.inj h]; rfl⟩
    · rename_i hc
      exact ⟨u, _, _, hu, .started hb he ho hc, by rw [← Host.Outcome.next.inj h]⟩

/-- Everything a command can do when it answers a next state. -/
theorem exec_issued {s t : State} {i : Instr} (h : exec i s = .next t) :
    ∃ u v o, s.units[s.sel]? = some u ∧ Issued s i u v o ∧ t = { s.setUnit v with unitOverlap := o } := by
  cases i with
  | nop =>
    unfold exec execNop at h
    exact State.runSingle_issued h (by decide) fun u =>
      ⟨u.hsvOut, u.pixOut, _, _, rfl, fun _ => rfl, fun _ => rfl, fun _ => rfl⟩
  | rgb2hsv =>
    unfold exec execRgb2hsv at h
    refine State.runSingle_issued h (by decide) fun u =>
      ⟨_, u.pixOut, _, _, rfl, fun _ => rfl, fun _ => rfl, fun ho => ?_⟩
    simp [Instr.opcode] at ho
  | hsv2rgb =>
    unfold exec execHsv2rgb at h
    refine State.runSingle_issued h (by decide) fun u =>
      ⟨u.hsvOut, _, _, _, rfl, fun _ => rfl, fun ho => ?_, fun _ => rfl⟩
    simp [Instr.opcode] at ho
  | inband j =>
    unfold exec execInband at h
    refine State.runSingle_issued h (by simp [Instr.opcode]) fun u =>
      ⟨u.hsvOut, u.pixOut, _, _, rfl, fun hm => ?_, fun _ => rfl, fun _ => rfl⟩
    simp [hm]
  | pxshift =>
    unfold exec execPxshift at h
    refine State.runSingle_issued h (by decide) fun u =>
      ⟨_, _, _, _, rfl, fun _ => rfl, fun ho => ?_, fun ho => ?_⟩ <;> simp [Instr.opcode] at ho
  | pxband j =>
    unfold exec execPxband at h
    refine State.runSingle_issued h (by simp [Instr.opcode]) fun u =>
      ⟨_, _, _, _, rfl, fun hm => ?_, fun ho => ?_, fun ho => ?_⟩
    · simp [hm]
    · simp [Instr.opcode] at ho
    · simp [Instr.opcode] at ho
  | pxmulti =>
    unfold exec execPxmulti at h
    refine State.runSingle_issued h (by decide) fun u =>
      ⟨_, _, _, _, rfl, fun hm => ?_, fun ho => ?_, fun ho => ?_⟩
    · revert hm
      unfold adjustMulti
      split <;> simp
    · simp [Instr.opcode] at ho
    · simp [Instr.opcode] at ho
  | bufshift => exact State.runBuffer_issued h (by decide)
  | bufband j => exact State.runBuffer_issued h (by simp [Instr.opcode])
  | bufmulti => exact State.runBuffer_issued h (by decide)

/-- What the checks of a buffer command that starts have shown. -/
theorem Block.bufferCheck_run {u : Block} {c : Config} {i : Instr} (h : u.bufferCheck c i = .run) :
    u.bufBase ≠ 0 ∧ u.bufLen ≠ 0 ∧ (i = .bufmulti → u.ruleCount ≠ 0) ∧
      u.bufBase.getLsbD 0 = false ∧ u.bufEnd ≤ memSize ∧
      c.rangeAdmit u.bufBase.toNat u.bufEnd = true := by
  unfold Block.bufferCheck at h
  split at h
  · cases h
  · rename_i h1
    split at h
    · cases h
    · rename_i h2
      split at h
      · cases h
      · rename_i h3
        split at h
        · cases h
        · rename_i h4
          simp only [not_or, not_and] at h1
          exact ⟨h1.1, h1.2.1, h1.2.2, by simpa using h2, by omega, by simpa using h4⟩

/-- The four answers of the checks of a buffer command, each with what it takes (60_exceptions.md R205). -/
theorem Block.bufferCheck_answers (u : Block) (c : Config) (i : Instr) :
    let noop := u.bufBase = 0 ∨ u.bufLen = 0 ∨ (i = .bufmulti ∧ u.ruleCount = 0)
    (noop → u.bufferCheck c i = .noop) ∧
    (¬ noop → u.bufBase.getLsbD 0 = true → u.bufferCheck c i = .rejected .align) ∧
    (¬ noop → u.bufBase.getLsbD 0 = false →
      memSize < u.bufEnd ∨ c.rangeAdmit u.bufBase.toNat u.bufEnd = false →
      u.bufferCheck c i = .rejected .range) ∧
    (¬ noop → u.bufBase.getLsbD 0 = false → ¬ memSize < u.bufEnd →
      c.rangeAdmit u.bufBase.toNat u.bufEnd = true → u.bufferCheck c i = .run) := by
  refine ⟨fun h => ?_, fun h h1 => ?_, fun h h1 h2 => ?_, fun h h1 h2 h3 => ?_⟩ <;>
    unfold Block.bufferCheck
  · rw [if_pos h]
  · rw [if_neg h, if_pos h1]
  · rw [if_neg h, if_neg (by rw [h1]; decide)]
    by_cases hm : memSize < u.bufEnd
    · rw [if_pos hm]
    · rw [if_neg hm, if_pos (by simpa using h2.resolve_left hm)]
  · rw [if_neg h, if_neg (by rw [h1]; decide), if_neg h2, if_neg (by simp [h3])]

/-- A buffer command that reaches its own checks is answered by them. -/
theorem exec_buffer {s : State} {u : Block} {i : Instr} (hu : s.units[s.sel]? = some u)
    (hb : u.status.busy = false) (ho : 8 ≤ i.opcode.toNat) (hw : i.wf s.cfg.maxRules = true)
    (hc : i = .bufmulti → u.ruleCount.toNat ≤ s.cfg.maxRules) :
    exec i s =
      match u.bufferCheck s.cfg i with
      | .noop => .next (s.setUnit (u.noopBuffer i))
      | .rejected e => .next (s.setUnit (u.reject e))
      | .run =>
        .next { s.setUnit (u.startBuffer i s.mem) with
                  unitOverlap := s.unitOverlap || s.overlapsBusy u } := by
  have hn : u.issueError s.cfg.maxRules i = none := Block.issueError_none hw fun h => by
    cases i <;> simp [usesRuleCount] at h
    · simp [Instr.opcode] at ho
    · exact hc rfl
  have : exec i s = s.runBuffer i := by
    cases i <;> first | rfl | simp [Instr.opcode] at ho
  rw [this]
  exact State.issueTo_accept _ hu hb hn

end Sys2Proof.Machine
end

