-- ==== Sys2Proof/Laws/Memory.lean ====
section
/-! SUPPORT. Buffer memory: reading what was written, and the canonical form. -/

namespace Sys2Proof.Machine

@[simp] theorem Memory.read_write_same (m : Memory) (a : Nat) (b : Byte) :
    Memory.read (Memory.write m a b) a = some b := by
  induction m with
  | nil => simp [Memory.write, Memory.read]
  | cons c m ih =>
    unfold Memory.write
    split
    · simp [Memory.read]
    · split
      · simp [Memory.read]
      · rename_i h; simp [Memory.read, ih, Ne.symm h]

theorem Memory.read_write_other (m : Memory) {a x : Nat} (b : Byte) (h : x ≠ a) :
    Memory.read (Memory.write m a b) x = Memory.read m x := by
  induction m with
  | nil => simp [Memory.write, Memory.read, Ne.symm h]
  | cons c m ih =>
    unfold Memory.write
    split
    · simp [Memory.read, Ne.symm h]
    · split
      · rename_i h'; subst h'; simp [Memory.read, Ne.symm h]
      · simp [Memory.read, ih]

@[simp] theorem Memory.byte_write_same (m : Memory) (a : Nat) (b : Byte) :
    Memory.byte (Memory.write m a b) a = b := by
  simp [Memory.byte]

theorem Memory.byte_write_other (m : Memory) {a x : Nat} (b : Byte) (h : x ≠ a) :
    Memory.byte (Memory.write m a b) x = Memory.byte m x := by
  simp [Memory.byte, Memory.read_write_other m b h]

/-- The addresses a write leaves listed: the old ones and its own. -/
theorem Memory.mem_write {m : Memory} {a : Nat} {b : Byte} {c : Host.Cell}
    (h : c ∈ Memory.write m a b) : c = (a, b) ∨ c ∈ m := by
  induction m with
  | nil => simpa [Memory.write] using h
  | cons d m ih =>
    unfold Memory.write at h
    split at h
    · simpa using h
    · split at h
      · rcases List.mem_cons.mp h with h | h
        · exact .inl h
        · exact .inr (List.mem_cons_of_mem _ h)
      · rcases List.mem_cons.mp h with h | h
        · exact .inr (h ▸ List.mem_cons_self)
        · exact (ih h).imp id (List.mem_cons_of_mem _)

/-- Writing keeps the addresses rising. -/
theorem Memory.write_rising {m : Memory} (a : Nat) (b : Byte)
    (h : m.Pairwise fun c d => c.1 < d.1) :
    (Memory.write m a b).Pairwise fun c d => c.1 < d.1 := by
  induction m with
  | nil => simp [Memory.write]
  | cons c m ih =>
    obtain ⟨hc, hm⟩ := List.pairwise_cons.mp h
    unfold Memory.write
    split
    · rename_i hlt
      refine List.pairwise_cons.mpr ⟨fun d hd => ?_, h⟩
      rcases List.mem_cons.mp hd with rfl | hd
      · exact hlt
      · exact Nat.lt_trans hlt (hc d hd)
    · split
      · rename_i heq; subst heq
        exact List.pairwise_cons.mpr ⟨fun d hd => hc d hd, hm⟩
      · rename_i hlt hne
        refine List.pairwise_cons.mpr ⟨fun d hd => ?_, ih hm⟩
        rcases Memory.mem_write hd with rfl | hd
        · exact lt_of_le_of_ne (Nat.le_of_not_lt hlt) (Ne.symm hne)
        · exact hc d hd

/-- Every write to an address of buffer memory keeps the canonical form. -/
theorem Memory.write_wf {m : Memory} {a : Nat} (b : Byte) (ha : a < memSize) (h : Memory.wf m) :
    Memory.wf (Memory.write m a b) := by
  refine ⟨Memory.write_rising a b h.1, fun c hc => ?_⟩
  rcases Memory.mem_write hc with rfl | hc
  · exact ha
  · exact h.2 c hc

theorem Memory.writePixel_wf {m : Memory} {a : Nat} (o : ByteOrder) (p : Pixel)
    (ha : a + 1 < memSize) (h : Memory.wf m) : Memory.wf (Memory.writePixel o m a p) :=
  Memory.write_wf _ ha (Memory.write_wf _ (Nat.lt_of_succ_lt ha) h)

theorem Memory.byte_writePixel_other (o : ByteOrder) (m : Memory) {a x : Nat} (p : Pixel)
    (h : x ≠ a) (h' : x ≠ a + 1) :
    Memory.byte (Memory.writePixel o m a p) x = Memory.byte m x := by
  rw [Memory.writePixel, Memory.byte_write_other _ _ h', Memory.byte_write_other _ _ h]

@[simp] theorem Memory.byte_writePixel_lower (o : ByteOrder) (m : Memory) (a : Nat) (p : Pixel) :
    Memory.byte (Memory.writePixel o m a p) a = lowerByte o p := by
  rw [Memory.writePixel, Memory.byte_write_other _ _ (by omega), Memory.byte_write_same]

@[simp] theorem Memory.byte_writePixel_higher (o : ByteOrder) (m : Memory) (a : Nat) (p : Pixel) :
    Memory.byte (Memory.writePixel o m a p) (a + 1) = higherByte o p := by
  rw [Memory.writePixel, Memory.byte_write_same]

/-- The bytes of a pixel joined give the pixel. -/
@[simp] theorem joinBytes_bytes (o : ByteOrder) (p : Pixel) :
    joinBytes o (lowerByte o p) (higherByte o p) = p := by
  cases o <;> apply BitVec.eq_of_toNat_eq <;>
    simp [joinBytes, lowerByte, higherByte, BitVec.extractLsb'_toNat, Nat.shiftRight_eq_div_pow] <;>
    omega

@[simp] theorem Memory.readPixel_writePixel_same (o : ByteOrder) (m : Memory) (a : Nat) (p : Pixel) :
    Memory.readPixel o (Memory.writePixel o m a p) a = p := by
  simp [Memory.readPixel]

/-- A pixel reads alike where its two bytes do. -/
theorem Memory.readPixel_congr {o : ByteOrder} {m m' : Memory} {a : Nat}
    (h : Memory.byte m' a = Memory.byte m a) (h' : Memory.byte m' (a + 1) = Memory.byte m (a + 1)) :
    Memory.readPixel o m' a = Memory.readPixel o m a := by
  unfold Memory.readPixel
  rw [h, h']

/-- A pixel at other bytes does not change. -/
theorem Memory.readPixel_writePixel_other (o : ByteOrder) (m : Memory) {a x : Nat} (p : Pixel)
    (h : x + 1 < a ∨ a + 1 < x) :
    Memory.readPixel o (Memory.writePixel o m a p) x = Memory.readPixel o m x := by
  unfold Memory.readPixel
  rw [Memory.byte_writePixel_other _ _ _ (by omega) (by omega),
    Memory.byte_writePixel_other _ _ _ (by omega) (by omega)]

/-- A memory with rising addresses lists nothing below its first address. -/
theorem Memory.read_below {m : Memory} {a : Nat} (h : ∀ c ∈ m, a < c.1) : Memory.read m a = none := by
  induction m with
  | nil => rfl
  | cons c m ih =>
    have hc := h c (by simp)
    rw [Memory.read, if_neg (by omega)]
    exact ih fun d hd => h d (by simp [hd])

/-- Memories in canonical form that read alike are equal data. -/
theorem Memory.ext_read {m m' : Memory} (h : m.Pairwise fun c d => c.1 < d.1)
    (h' : m'.Pairwise fun c d => c.1 < d.1) (e : ∀ a, Memory.read m a = Memory.read m' a) : m = m' := by
  induction m generalizing m' with
  | nil =>
    cases m' with
    | nil => rfl
    | cons d m' => simpa [Memory.read] using e d.1
  | cons c m ih =>
    obtain ⟨hc, hm⟩ := List.pairwise_cons.mp h
    cases m' with
    | nil => simpa [Memory.read] using e c.1
    | cons d m' =>
      obtain ⟨hd, hm'⟩ := List.pairwise_cons.mp h'
      have hcd : c.1 = d.1 := by
        rcases Nat.lt_trichotomy c.1 d.1 with hlt | heq | hlt
        · have := e c.1
          rw [Memory.read_below (m := d :: m') (by
            intro x hx
            rcases List.mem_cons.mp hx with rfl | hx
            · exact hlt
            · exact Nat.lt_trans hlt (hd x hx))] at this
          simp [Memory.read] at this
        · exact heq
        · have := e d.1
          rw [Memory.read_below (m := c :: m) (by
            intro x hx
            rcases List.mem_cons.mp hx with rfl | hx
            · exact hlt
            · exact Nat.lt_trans hlt (hc x hx))] at this
          simp [Memory.read] at this
      have h2 : c.2 = d.2 := by simpa [Memory.read, hcd] using e c.1
      obtain rfl : c = d := Prod.ext hcd h2
      congr 1
      refine ih hm hm' fun a => ?_
      by_cases ha : c.1 = a
      · subst ha
        rw [Memory.read_below hc, Memory.read_below hd]
      · simpa [Memory.read, ha] using e a

/-- Writes to different addresses commute, as data. -/
theorem Memory.write_comm {m : Memory} (h : m.Pairwise fun c d => c.1 < d.1) {a a' : Nat} (b b' : Byte)
    (ha : a ≠ a') :
    Memory.write (Memory.write m a b) a' b' = Memory.write (Memory.write m a' b') a b := by
  refine Memory.ext_read (Memory.write_rising _ _ (Memory.write_rising _ _ h))
    (Memory.write_rising _ _ (Memory.write_rising _ _ h)) fun x => ?_
  by_cases h1 : x = a
  · subst h1
    rw [Memory.read_write_other _ _ ha, Memory.read_write_same, Memory.read_write_same]
  · by_cases h2 : x = a'
    · subst h2
      rw [Memory.read_write_same, Memory.read_write_other _ _ h1, Memory.read_write_same]
    · rw [Memory.read_write_other _ _ h2, Memory.read_write_other _ _ h1,
        Memory.read_write_other _ _ h1, Memory.read_write_other _ _ h2]

end Sys2Proof.Machine
end

