-- ==== Sys2Proof/Laws/Platform.lean ====
section
/-! SUPPORT. The parameters: what `MemAdmit` and legality give, and which access addresses which unit. -/

namespace Sys2Proof

open Machine

theorem Config.memAdmit_iff (c : Config) (a : Nat) :
    c.memAdmit a = true ↔ ∃ r ∈ c.admitted, r.base ≤ a ∧ a < r.stop := by
  simp [Config.memAdmit]

/-- What legality says, field by field. -/
theorem Config.legal_iff (c : Config) :
    c.legal = true ↔ 1 ≤ c.maxRules ∧ c.maxRules ≤ 16 ∧ 1 ≤ c.regBases.length ∧
      regBasesLegal c.regBases = true ∧
      ∀ r ∈ c.admitted, r.stop ≤ memSize ∧ ∀ b ∈ c.regBases, r.offBlock b = true := by
  simp only [Config.legal, Bool.and_eq_true, decide_eq_true_eq, List.all_eq_true, and_assoc]

/-- An admitted byte is a byte of buffer memory. -/
theorem Config.memAdmit_lt {c : Config} (hc : c.legal = true) {a : Nat} (h : c.memAdmit a = true) :
    a < memSize := by
  obtain ⟨r, hr, -, ha⟩ := (c.memAdmit_iff a).mp h
  exact Nat.lt_of_lt_of_le ha (c.legal_iff.mp hc |>.2.2.2.2 r hr).1

/-- A range that passed the check is admitted at every byte (20_memory.md R66). -/
theorem Config.memAdmit_of_rangeAdmit {c : Config} {lo hi : Nat} (h : c.rangeAdmit lo hi = true) :
    ∀ a, lo ≤ a → a < hi → c.memAdmit a = true := by
  simp only [Config.rangeAdmit, Bool.or_eq_true, decide_eq_true_eq, Bool.and_eq_true,
    List.all_eq_true, Bool.not_eq_true', Bool.and_eq_false_iff, decide_eq_false_iff_not] at h
  rcases h with h | ⟨h1, h2⟩
  · intro a _ _
    omega
  · intro a ha
    induction a, ha using Nat.le_induction with
    | base => exact fun _ => h1
    | succ a ha ih =>
      intro hlt
      obtain ⟨r, hr, hb, hs⟩ := (c.memAdmit_iff a).mp (ih (by omega))
      by_cases he : a + 1 < r.stop
      · exact (c.memAdmit_iff _).mpr ⟨r, hr, by omega, he⟩
      · have he' : r.stop = a + 1 := by omega
        rcases h2 r hr with (h | h) | h
        · omega
        · omega
        · rwa [he'] at h

/-- A range that is admitted at every byte passes the check (20_memory.md R66). -/
theorem Config.rangeAdmit_of_memAdmit {c : Config} {lo hi : Nat}
    (h : ∀ a, lo ≤ a → a < hi → c.memAdmit a = true) : c.rangeAdmit lo hi = true := by
  simp only [Config.rangeAdmit, Bool.or_eq_true, decide_eq_true_eq, Bool.and_eq_true,
    List.all_eq_true, Bool.not_eq_true', Bool.and_eq_false_iff, decide_eq_false_iff_not]
  by_cases hl : hi ≤ lo
  · exact .inl hl
  · refine .inr ⟨h lo (Nat.le_refl lo) (by omega), fun r _ => ?_⟩
    by_cases h1 : lo < r.stop
    · by_cases h2 : r.stop < hi
      · exact .inr (h _ (Nat.le_of_lt h1) h2)
      · exact .inl (.inr h2)
    · exact .inl (.inl h1)

/-- Register blocks are aligned. -/
theorem regBasesLegal_mod {l : List Nat} (h : regBasesLegal l = true) {b : Nat} (hb : b ∈ l) :
    b % 256 = 0 := by
  induction l with
  | nil => cases hb
  | cons c l ih =>
    simp only [regBasesLegal, Bool.and_eq_true, beq_iff_eq] at h
    rcases List.mem_cons.mp hb with rfl | hb
    · exact h.1.1
    · exact ih h.2 hb

/-- Each unit's block is found by its addresses. -/
theorem findBlock_base {l : List Nat} (h : regBasesLegal l = true) {k base off : Nat} (j : Nat)
    (hk : l[k]? = some base) (ho : off < 256) : findBlock l j (base + off) = some (j + k, off) := by
  induction l generalizing k j with
  | nil => simp at hk
  | cons b l ih =>
    simp only [regBasesLegal, Bool.and_eq_true, beq_iff_eq, Bool.not_eq_true'] at h
    obtain ⟨⟨h0, h1⟩, h2⟩ := h
    cases k with
    | zero =>
      obtain rfl : b = base := by simpa using hk
      simp [findBlock, ho]
    | succ k =>
      have hk' : l[k]? = some base := by simpa using hk
      have hm : base ∈ l := List.mem_of_getElem? hk'
      have h3 := regBasesLegal_mod h2 hm
      have hne : b ≠ base := fun e => by
        subst e; simp [hm] at h1
      have : ¬(b ≤ base + off ∧ base + off < b + 256) := by omega
      rw [findBlock, if_neg this, ih h2 (j + 1) hk']
      congr 2; omega

/-- An aligned 32-bit access to a unit's block reaches that unit at that offset. -/
theorem Config.route_base {c : Config} (hc : c.legal = true) {k base off : Nat}
    (hk : c.regBases[k]? = some base) (ho : off < 256) (ha : off % 4 = 0) :
    c.route (base + off) .b32 = some (k, off) := by
  have h := findBlock_base (c.legal_iff.mp hc).2.2.2.1 0 hk ho
  simp only [Nat.zero_add] at h
  simp [Config.route, h, ha]

/-- A block that is found is one of the list, and the address lies in it. -/
theorem findBlock_some {l : List Nat} {j a k off : Nat} (h : findBlock l j a = some (k, off)) :
    ∃ b, l[k - j]? = some b ∧ j ≤ k ∧ b ≤ a ∧ a < b + 256 ∧ off = a - b := by
  induction l generalizing j with
  | nil => simp [findBlock] at h
  | cons b l ih =>
    unfold findBlock at h
    split at h
    · rename_i hb
      obtain ⟨rfl, rfl⟩ := Prod.mk.inj (Option.some.inj h)
      exact ⟨b, by simp, Nat.le_refl _, hb.1, hb.2, rfl⟩
    · obtain ⟨b', h1, h2, h3⟩ := ih h
      refine ⟨b', ?_, by omega, h3⟩
      have : k - j = (k - (j + 1)) + 1 := by omega
      rw [this]; simpa using h1

/-- What an access that is routed is: 32 bits wide, in the block of the unit, aligned. -/
theorem Config.route_some {c : Config} {addr : Nat} {width : AccessWidth} {k off : Nat}
    (h : c.route addr width = some (k, off)) :
    width = .b32 ∧ off % 4 = 0 ∧
      ∃ b, c.regBases[k]? = some b ∧ b ≤ addr ∧ addr < b + 256 ∧ off = addr - b := by
  cases width <;> simp only [Config.route, reduceCtorEq] at h
  split at h
  · cases h
  · rename_i k' off' hf
    split at h
    · rename_i ho
      obtain ⟨rfl, rfl⟩ := Prod.mk.inj (Option.some.inj h)
      obtain ⟨b, h1, -, h2⟩ := findBlock_some hf
      exact ⟨rfl, ho, b, by simpa using h1, h2⟩
    · cases h

end Sys2Proof
end

