-- ==== Sys2Proof/Laws/Host.lean ====
section
/-! SUPPORT. Everything that an engine step, a host transition and a step of the machine can do. -/

namespace Sys2Proof.Machine

/-- An engine step that answers a next state: nothing where BUSY = 0, else one pixel. -/
theorem State.engineStep_cases {s t : State} {k : Nat} (h : s.engineStep k = .next t) :
    ∃ u, s.units[k]? = some u ∧
      (u.status.busy = false ∧ t = s ∨
       u.status.busy = true ∧ u.engineReady s.cfg = true ∧
        ∃ r, u.pixfn s.cfg.lutMode
            (Memory.readPixel s.cfg.byteOrder s.mem (u.ea u.progress.toNat)) = some r ∧
          t = { s with
                  units := s.units.set k (u.afterPixel r.matched),
                  mem := if r.matched then
                    Memory.writePixel s.cfg.byteOrder s.mem (u.ea u.progress.toNat) r.pixel
                    else s.mem }) := by
  unfold State.engineStep at h
  split at h
  · cases h
  · rename_i u hu
    refine ⟨u, hu, ?_⟩
    split at h
    · rename_i hb
      exact .inl ⟨by simpa using hb, (Host.Outcome.next.inj h).symm⟩
    · rename_i hb
      split at h
      · cases h
      · rename_i hr
        dsimp only at h
        split at h
        · cases h
        · rename_i r hp
          exact .inr ⟨by simpa using hb, by simpa using hr, r, hp, (Host.Outcome.next.inj h).symm⟩

/-- An engine step that can be made. -/
theorem State.engineStep_next {s : State} {k : Nat} {u : Block} {r : Adjusted}
    (hu : s.units[k]? = some u) (hb : u.status.busy = true) (hr : u.engineReady s.cfg = true)
    (hp : u.pixfn s.cfg.lutMode
      (Memory.readPixel s.cfg.byteOrder s.mem (u.ea u.progress.toNat)) = some r) :
    s.engineStep k = .next
      { s with
          units := s.units.set k (u.afterPixel r.matched),
          mem := if r.matched then
            Memory.writePixel s.cfg.byteOrder s.mem (u.ea u.progress.toNat) r.pixel else s.mem } := by
  simp [State.engineStep, hu, hb, hr, hp]

/-- What a host access to a unit's registers leaves of the unit and of `UNIT_OVERLAP`. -/
inductive Accessed (s : State) (u : Block) : Block → Bool → Prop where
  | ignored (hb : u.status.busy = true) : Accessed s u u.ignoreWrite s.unitOverlap
  | rejected (hb : u.status.busy = false) (w : Word) (e : CmdError)
      (hd : decode s.cfg.maxRules w = .error e) : Accessed s u (u.reject e) s.unitOverlap
  | issued (hb : u.status.busy = false) (w : Word) (i : Instr) (hd : decode s.cfg.maxRules w = .ok i)
      (v : Block) (o : Bool) (h : Issued s i u v o) : Accessed s u v o
  | written (off : Nat) (ho : off ≠ RegName.cmd.offset) (w : Word) :
      Accessed s u (u.writeAt s.cfg.maxRules off w) s.unitOverlap

theorem State.issue_cases {s t : State} {w : Word} (h : s.issue w = .next t) :
    ∃ u v o, s.units[s.sel]? = some u ∧ Accessed s u v o ∧ t = { s.setUnit v with unitOverlap := o } := by
  unfold State.issue at h
  split at h
  · cases h
  · rename_i u hu
    split at h
    · rename_i hb
      exact ⟨u, _, _, hu, .ignored hb, by rw [← Host.Outcome.next.inj h]; rfl⟩
    · rename_i hb
      have hb : u.status.busy = false := by simpa using hb
      split at h
      · rename_i e hd
        exact ⟨u, _, _, hu, .rejected hb w e hd, by rw [← Host.Outcome.next.inj h]; rfl⟩
      · rename_i i hd
        obtain ⟨u', v, o, hu', hi, rfl⟩ := exec_issued h
        obtain rfl : u = u' := Option.some.inj (hu.symm.trans hu')
        exact ⟨u, v, o, hu, .issued hb w i hd v o hi, rfl⟩

theorem State.regWrite_cases {s t : State} {addr : Nat} {width : AccessWidth} {w : Word}
    (h : s.regWrite addr width w = .next t) :
    ∃ k u v o, s.units[k]? = some u ∧ Accessed s u v o ∧
      t = { s with sel := k, units := s.units.set k v, unitOverlap := o } := by
  unfold State.regWrite at h
  split at h
  · cases h
  · rename_i k off _
    split at h
    · cases h
    · rename_i u hu
      split at h
      · obtain ⟨u', v, o, hu', hv, rfl⟩ := State.issue_cases h
        obtain rfl : u = u' := Option.some.inj (hu.symm.trans hu')
        refine ⟨k, u, v, o, hu, ?_, rfl⟩
        cases hv with
        | ignored hb => exact .ignored hb
        | rejected hb w e hd => exact Accessed.rejected (s := s) hb w e hd
        | issued hb w i hd v o hi =>
          refine Accessed.issued (s := s) hb w i hd v o ?_
          cases hi with
          | ignored hb => exact .ignored hb
          | rejected hb e he => exact Issued.rejected (s := s) hb e he
          | single hb he ho x q m k hk hq hx => exact Issued.single (s := s) hb he ho x q m k hk hq hx
          | noop hb he ho hc => exact Issued.noop (s := s) hb he ho hc
          | started hb he ho hc => exact Issued.started (s := s) hb he ho hc
        | written off ho w => exact .written off ho w
      · rename_i ho
        exact ⟨k, u, _, _, hu, .written off ho w, by rw [← Host.Outcome.next.inj h]; rfl⟩

/-- A unit that is busy after a host write other than a command was busy before it, and at most its STATUS changed
(10_state.md R26, R30). -/
theorem Block.writeAt_busy {u : Block} (n off : Nat) (w : Word) (h : (u.writeAt n off w).status.busy = true) :
    u.status.busy = true ∧ ∃ x, u.writeAt n off w = { u with status := x } := by
  have hr : ∀ r : RegName, (u.writeReg r w).status.busy = true →
      u.status.busy = true ∧ ∃ x, u.writeReg r w = { u with status := x } := by
    intro r h
    have hs : (u.writeReg r w).status.busy = u.status.busy := by
      cases r <;> simp only [Block.writeReg] <;> first | rfl | (split <;> rfl)
    have hb : u.status.busy = true := hs.symm.trans h
    refine ⟨hb, ?_⟩
    cases r <;> simp only [Block.writeReg, hb, if_true] <;> exact ⟨_, rfl⟩
  unfold Block.writeAt at h ⊢
  split at h
  · exact hr _ h
  · exact ⟨h, u.status, rfl⟩

/-- A unit that is busy after a host access was busy before it, and at most its STATUS changed; or the access
started a buffer command. -/
theorem Accessed.busy_cases {s : State} {u v : Block} {o : Bool} (hv : Accessed s u v o)
    (hb : v.status.busy = true) :
    u.status.busy = true ∧ o = s.unitOverlap ∧ (∃ x, v = { u with status := x }) ∨
    u.status.busy = false ∧ o = (s.unitOverlap || s.overlapsBusy u) ∧ ∃ i, v = u.startBuffer i s.mem := by
  cases hv with
  | ignored h => exact .inl ⟨h, rfl, _, rfl⟩
  | rejected h => exact absurd (h.symm.trans hb) (by decide)
  | written off ho w => exact .inl ⟨(Block.writeAt_busy _ _ _ hb).1, rfl, (Block.writeAt_busy _ _ _ hb).2⟩
  | issued h w i hd v o hi =>
    cases hi with
    | ignored h' => exact .inl ⟨h', rfl, _, rfl⟩
    | rejected h' => exact absurd (h'.symm.trans hb) (by decide)
    | single h' => exact absurd (h'.symm.trans hb) (by decide)
    | noop h' => exact absurd (h'.symm.trans hb) (by decide)
    | started h' => exact .inr ⟨h', rfl, i, rfl⟩
/-- A host access to memory that is answered was to an admitted byte of buffer memory. -/
theorem State.checkAccess_cases {s t : State} {a : Nat} {k : Host.Outcome State Fault Refusal}
    (h : s.checkAccess a k = .next t) : a < memSize ∧ s.cfg.memAdmit a = true ∧ k = .next t := by
  unfold State.checkAccess at h
  split at h
  · cases h
  · rename_i h1
    split at h
    · cases h
    · rename_i h2
      exact ⟨by omega, by simpa using h2, h⟩

theorem State.checkAccess_next {s : State} {a : Nat} {k : Host.Outcome State Fault Refusal}
    (h : a < memSize) (h' : s.cfg.memAdmit a = true) : s.checkAccess a k = k := by
  simp [State.checkAccess, h', Nat.not_le.mpr h]

/-- What a host write of a byte changes: that byte, and `HOST_RACE`, which is recorded where the byte is active. -/
theorem State.storeByte_eq (s : State) (a : Nat) (b : Byte) :
    ∃ b' r, s.storeByte a b = { s with mem := Memory.write s.mem a b', hostRace := r } ∧
      (s.hostRace = true → r = true) ∧ (r = false → s.activeUnit a = none) := by
  unfold State.storeByte
  split
  · exact ⟨_, true, rfl, fun _ => rfl, by simp⟩
  · rename_i h
    exact ⟨_, s.hostRace, rfl, id, fun _ => by simpa using h⟩

/-- An address of no unit's active range. -/
theorem State.activeUnit_none {s : State} {a : Nat} :
    s.activeUnit a = none ↔ ∀ u ∈ s.units, u.activeAt a = false := by
  simp [State.activeUnit]

/-- Everything a transition can do to the platform, by the agenda entry it performs (none where the
agenda is empty); only a reset entry resets a unit. -/
inductive Moved (s : State) (e : Option Event) : State → Prop where
  /-- A read of the host, or no transition: only the model's own fields change. -/
  | looked (sel : Nat) (hs : sel = s.sel ∨ sel < s.units.length) (data : Option Word) (n : Nat)
      (ag : List Event) : Moved s e { s with sel := sel, hostData := data, draws := n, agenda := ag }
  /-- A host write to buffer memory; unless `HOST_RACE` is recorded no byte of an active range changes. -/
  | stored (m : Memory) (hm : Memory.wf s.mem → Memory.wf m) (r : Bool)
      (hr : s.hostRace = true → r = true) (n : Nat)
      (hf : r = false → ∀ c, s.activeUnit c ≠ none → Memory.byte m c = Memory.byte s.mem c) :
      Moved s e { s with mem := m, hostRace := r, draws := n }
  /-- A host write to the registers of unit `k`. -/
  | accessed (k : Nat) (u v : Block) (o : Bool) (hu : s.units[k]? = some u) (hv : Accessed s u v o) :
      Moved s e { s with sel := k, units := s.units.set k v, unitOverlap := o }
  /-- An engine step of unit `k`. -/
  | engine (k : Nat) (u : Block) (r : Adjusted) (hu : s.units[k]? = some u)
      (hb : u.status.busy = true) (hr : u.engineReady s.cfg = true)
      (hp : u.pixfn s.cfg.lutMode
        (Memory.readPixel s.cfg.byteOrder s.mem (u.ea u.progress.toNat)) = some r) :
      Moved s e { s with
                  units := s.units.set k (u.afterPixel r.matched),
                  mem := if r.matched then
                    Memory.writePixel s.cfg.byteOrder s.mem (u.ea u.progress.toNat) r.pixel
                    else s.mem }
  /-- Reset of unit `k`. -/
  | reset (k : Nat) (he : e = some (.reset k)) (hk : k < s.units.length) :
      Moved s e { s with units := s.units.set k (Block.reset s.cfg.maxRules) }

theorem State.engineStep_moved {s t : State} {k : Nat} (e : Option Event)
    (h : s.engineStep k = .next t) : Moved s e t := by
  obtain ⟨u, hu, h⟩ := State.engineStep_cases h
  rcases h with ⟨-, rfl⟩ | ⟨hb, hr, r, hp, rfl⟩
  · exact .looked _ (.inl rfl) _ _ _
  · exact .engine k u r hu hb hr hp

theorem State.perform_moved {s t : State} {e : Event} (h : s.perform e = .next t) :
    Moved s (some e) t := by
  cases e with
  | regWrite addr width w =>
    obtain ⟨k, u, v, o, hu, hv, rfl⟩ := State.regWrite_cases h
    exact .accessed k u v o hu hv
  | regRead addr width =>
    change s.regRead addr width = _ at h
    unfold State.regRead at h
    split at h
    · cases h
    · split at h
      · cases h
      · rename_i hu
        rw [← Host.Outcome.next.inj h]
        exact .looked _ (.inr (List.getElem?_eq_some_iff.mp hu).1) _ _ _
  | memWrite a p =>
    obtain ⟨h1, -, h⟩ := State.checkAccess_cases (s := s) h
    obtain ⟨h2, -, h⟩ := State.checkAccess_cases h
    obtain ⟨b, r, e1, hr, hn⟩ := s.storeByte_eq a (lowerByte s.cfg.byteOrder p)
    rw [e1] at h
    obtain ⟨b', r', e2, hr', hn'⟩ := State.storeByte_eq
      { s with mem := Memory.write s.mem a b, hostRace := r } (a + 1) (higherByte s.cfg.byteOrder p)
    rw [e2] at h
    rw [← Host.Outcome.next.inj h]
    exact .stored _ (fun hm => Memory.write_wf _ h2 (Memory.write_wf _ h1 hm)) _
      (fun x => hr' (hr x)) _ fun hf c hc => by
        have hn1 := hn (by cases hx : r with
          | false => rfl
          | true => exact (hr' hx).symm.trans hf)
        have h1 : c ≠ a := fun e => hc (by subst e; exact hn1)
        have h2 : c ≠ a + 1 := fun e => hc (by subst e; exact hn' hf)
        exact (Memory.byte_write_other _ _ h2).trans (Memory.byte_write_other _ _ h1)
  | memWriteByte a b =>
    obtain ⟨h1, -, h⟩ := State.checkAccess_cases (s := s) h
    obtain ⟨b', r, e1, hr, hn⟩ := s.storeByte_eq a b
    rw [e1] at h
    rw [← Host.Outcome.next.inj h]
    exact .stored _ (fun hm => Memory.write_wf _ h1 hm) _ hr _ fun hf c hc =>
      Memory.byte_write_other _ _ fun e => hc (by subst e; exact hn hf)
  | memRead a =>
    obtain ⟨-, -, h⟩ := State.checkAccess_cases (s := s) h
    obtain ⟨-, -, h⟩ := State.checkAccess_cases h
    rw [← Host.Outcome.next.inj h]
    exact .looked _ (.inl rfl) _ _ _
  | memReadByte a =>
    obtain ⟨-, -, h⟩ := State.checkAccess_cases (s := s) h
    rw [← Host.Outcome.next.inj h]
    exact .looked _ (.inl rfl) _ _ _
  | engine k => exact State.engineStep_moved _ h
  | reset k =>
    change s.resetUnit k = _ at h
    unfold State.resetUnit at h
    split at h
    · rename_i hk
      rw [← Host.Outcome.next.inj h]
      exact .reset k rfl hk
    · cases h
  | wait k =>
    change s.poll k = _ at h
    unfold State.poll at h
    split at h
    · cases h
    · rename_i hu
      rw [← Host.Outcome.next.inj h]
      exact .looked _ (.inr (List.getElem?_eq_some_iff.mp hu).1) _ _ _

/-- Everything a step can do: its parameters are legal, and it is one transition of the state with the
agenda entry it performs taken off. -/
theorem step_moved {s t : State} (h : step s = .next t) :
    s.cfg.legal = true ∧
      (s.agenda = [] ∧ Moved s none t ∨
        ∃ e rest, s.agenda = e :: rest ∧ State.perform { s with agenda := rest } e = .next t ∧
          Moved { s with agenda := rest } (some e) t) := by
  unfold step State.advance at h
  split at h
  · cases h
  · rename_i hl
    refine ⟨by simpa using hl, ?_⟩
    split at h
    · rename_i ha
      refine .inl ⟨ha, ?_⟩
      unfold State.settle at h
      split at h
      · exact State.engineStep_moved _ h
      · rw [← Host.Outcome.next.inj h]
        exact .looked _ (.inl rfl) _ _ _
    · rename_i e rest ha
      exact .inr ⟨e, rest, ha, h, State.perform_moved h⟩

/-- A step of a legal platform performs the first agenda entry. -/
theorem step_perform {s : State} {e : Event} {rest : List Event} (hl : s.cfg.legal = true)
    (ha : s.agenda = e :: rest) : step s = State.perform { s with agenda := rest } e := by
  simp [step, State.advance, hl, ha]

end Sys2Proof.Machine
end

