-- ==== Sys2Proof/Laws/Engine.lean ====
section
/-! SUPPORT. A running unit that meets the invariant: its engine has a next pixel and a function for it
(60_exceptions.md R207, R209), and what the engine leaves of the unit. -/

namespace Sys2Proof.Machine

theorem Block.pixfn_running {c : Config} {u : Block} (h : u.RunInv c) (m : LutMode) (p : Pixel) :
    u.pixfn m p = some { matched := u.pixelMatched m p, hit := (u.pixfn m p).elim 0 Adjusted.hit,
                         pixel := u.pixelAfter m p } := by
  have hs : ∃ r, u.pixfn m p = some r := by
    unfold Block.pixfn
    rcases h.2.2.2.2.2.2.2 with h | h | h
    · rw [h]; exact ⟨_, rfl⟩
    · rw [h]; exact ⟨_, rfl⟩
    · rw [h.1]; exact ⟨_, rfl⟩
  obtain ⟨r, hr⟩ := hs
  simp [Block.pixelMatched, Block.pixelAfter, hr]

/-- Both bytes of every pixel of a running unit's buffer are admitted. -/
theorem Block.admitted_running {c : Config} {u : Block} (h : u.RunInv c) {j : Nat} (hj : j < u.bufLen.toNat) :
    c.memAdmit (u.ea j) = true ∧ c.memAdmit (u.ea j + 1) = true := by
  have ha := Config.memAdmit_of_rangeAdmit h.2.2.2.2.2.1
  simp only [Block.bufEnd] at ha
  simp only [Block.ea]
  exact ⟨ha _ (by omega) (by omega), ha _ (by omega) (by omega)⟩

theorem Block.engineReady_running {c : Config} {u : Block} (h : u.RunInv c) : u.engineReady c = true := by
  have hl := h.2.2.2.2.2.2.1
  simp [Block.engineReady, hl, Block.admitted_running h hl]

/-- An unmatched pixel is the pixel that was read (42_pixel_adjust.md R146). -/
theorem Block.pixelAfter_unmatched {u : Block} {m : LutMode} {p : Pixel} (h : u.pixelMatched m p = false) :
    u.pixelAfter m p = p := by
  unfold Block.pixelMatched at h
  unfold Block.pixelAfter
  cases hf : u.pixfn m p with
  | none => rfl
  | some r =>
    rw [hf] at h
    simp only at h
    dsimp only
    unfold Block.pixfn at hf
    split at hf
    · obtain rfl := Option.some.inj hf
      cases h
    · obtain rfl := Option.some.inj hf
      unfold adjustSingle at h ⊢
      split at h
      · cases h
      · rename_i hn
        rw [if_neg hn]
    · obtain rfl := Option.some.inj hf
      unfold adjustMulti at h ⊢
      split at h
      · cases h
      · rfl
    · cases hf

end Sys2Proof.Machine
end

