-- ==== Sys2Proof/Laws/PerInstr.lean ====
section
/-! SUPPORT. What holds of every command as syntax, one lemma per command. -/

namespace Sys2Proof.Laws.EncodeFields

/-- The word of a command has the command's opcode and index in their fields and its reserved bits 0
(30_encoding.md R81), and its opcode is none of the reserved ones (R82). -/
def Statement (i : Instr) : Prop :=
  opField (encode i) = i.opcode ∧ ridxField (encode i) = i.ridx ∧ reservedField (encode i) = 0 ∧
    i.opcode.toNat ≠ 7 ∧ i.opcode.toNat ≤ 10

theorem fields (i : Instr) (h : i.opcode.toNat ≠ 7 ∧ i.opcode.toNat ≤ 10) : Statement i :=
  ⟨opField_encode i, ridxField_encode i, reservedField_encode i, h⟩

theorem nop : Statement .nop := fields _ (by decide)

theorem rgb2hsv : Statement .rgb2hsv := fields _ (by decide)

theorem hsv2rgb : Statement .hsv2rgb := fields _ (by decide)

theorem inband (k : RuleIdx) : Statement (.inband k) := fields _ (by simp [Instr.opcode])

theorem pxshift : Statement .pxshift := fields _ (by decide)

theorem pxband (k : RuleIdx) : Statement (.pxband k) := fields _ (by simp [Instr.opcode])

theorem pxmulti : Statement .pxmulti := fields _ (by decide)

theorem bufshift : Statement .bufshift := fields _ (by decide)

theorem bufband (k : RuleIdx) : Statement (.bufband k) := fields _ (by simp [Instr.opcode])

theorem bufmulti : Statement .bufmulti := fields _ (by decide)

end Sys2Proof.Laws.EncodeFields
end

