-- ==== Sys2Proof/Laws/Registers.lean ====
section
/-! SUPPORT. Where the rule table stands in the register block (10_state.md R28, R34). -/

namespace Sys2Proof.Machine

/-- The offset of `RULE_A[i]`. -/
theorem RegName.ofOffset_ruleA {n i : Nat} (h : i < n) :
    RegName.ofOffset n (0x40 + 8 * i) = some (.ruleA i) := by
  unfold RegName.ofOffset
  rw [if_pos (by omega), if_pos (by omega), if_pos (by omega)]
  congr 2
  omega

/-- The offset of `RULE_B[i]`. -/
theorem RegName.ofOffset_ruleB {n i : Nat} (h : i < n) :
    RegName.ofOffset n (0x44 + 8 * i) = some (.ruleB i) := by
  unfold RegName.ofOffset
  rw [if_pos (by omega), if_pos (by omega), if_neg (by omega), if_pos (by omega)]
  congr 2
  omega

end Sys2Proof.Machine
end

