-- ==== Sys2Proof/Tests/Slice0.lean ====
section
/-! SUPPORT. Tests: expected values are the spec's own (encodings of 30_encoding.md, vectors of
95_test_vectors.md). The second half holds, for each statement with hypotheses, a state that meets them. -/

namespace Sys2Proof.Tests

open Sys2Proof.Machine

/-! ## Well-formedness (30_encoding.md R84) -/

theorem test_wf_inband : Instr.wf 8 (.inband 8) = false ∧ Instr.wf 8 (.inband 7) = true := by decide

theorem test_wf_pxband : Instr.wf 8 (.pxband 15) = false ∧ Instr.wf 8 (.pxband 0) = true := by decide

theorem test_wf_bufband : Instr.wf 1 (.bufband 1) = false ∧ Instr.wf 16 (.bufband 15) = true := by decide

/-! ## Decoding words written out from R81, R82 -/

theorem test_decode_nop : decode 8 0b00000000000000000000000000000000#32 = .ok .nop := by decide

theorem test_decode_rgb2hsv : decode 8 0b00000000000000000000000000000001#32 = .ok .rgb2hsv := by decide

theorem test_decode_hsv2rgb : decode 8 0b00000000000000000000000000000010#32 = .ok .hsv2rgb := by decide

theorem test_decode_inband : decode 8 0b00000000000000000000000000100011#32 = .ok (.inband 2) := by decide

theorem test_decode_pxshift : decode 8 0b00000000000000000000000000000100#32 = .ok .pxshift := by decide

theorem test_decode_pxband : decode 8 0b00000000000000000000000000110101#32 = .ok (.pxband 3) := by decide

theorem test_decode_pxmulti : decode 8 0b00000000000000000000000000000110#32 = .ok .pxmulti := by decide

theorem test_decode_bufshift : decode 8 0b00000000000000000000000000001000#32 = .ok .bufshift := by decide

theorem test_decode_bufband : decode 8 0b00000000000000000000000001111001#32 = .ok (.bufband 7) := by decide

theorem test_decode_bufmulti : decode 8 0b00000000000000000000000000001010#32 = .ok .bufmulti := by decide

/-- X1, X2, X5: reserved opcodes, whatever the other bits. -/
theorem test_decode_illegal :
    decode 8 0x00000007 = .error .illegalOp ∧ decode 8 0x0000000B = .error .illegalOp ∧
      decode 8 0x000000FF = .error .illegalOp := by decide

/-- X6 to X10: reserved bits. -/
theorem test_decode_reserved :
    decode 8 0x00000100 = .error .reservedBits ∧ decode 8 0x80000001 = .error .reservedBits ∧
      decode 8 0x00000010 = .error .reservedBits ∧ decode 8 0x00000068 = .error .reservedBits ∧
      decode 8 0x0000001A = .error .reservedBits := by decide

/-- X11 to X13: rule indexes. -/
theorem test_decode_rule_index :
    decode 8 0x00000083 = .error .ruleIndex ∧ decode 8 0x000000F5 = .error .ruleIndex ∧
      decode 8 0x00000089 = .error .ruleIndex := by decide

theorem test_table_word : decodeTableWord 32 0x19 = some (.bufband 1) ∧ decodeTableWord 32 7 = none := by
  decide

/-- The code of each cause (R202). -/
theorem test_codes :
    CmdError.illegalOp.code = 1 ∧ CmdError.reservedBits.code = 2 ∧ CmdError.ruleIndex.code = 3 ∧
      CmdError.ruleCount.code = 4 ∧ CmdError.align.code = 5 ∧ CmdError.range.code = 6 := by decide

/-! ## Small states -/

/-- The registers of a unit after reset. -/
def u0 : Block := Block.reset 8

/-- The platform after reset, but for the registers of its unit. -/
def withUnit (u : Block) : State := { State.reset with units := [u] }

/-- The unit after a command, if the command answers a next state. -/
def unitAfter (i : Instr) (u : Block) : Option Block :=
  (nextState (exec i (withUnit u))).bind fun t => t.units[0]?

/-- STATUS and CMD after a command, as they read. -/
def statusAfter (i : Instr) (u : Block) : Option (Word × Word) :=
  (unitAfter i u).map fun v => (v.status.word, v.cmd)

/-- Rule slot 0 of an otherwise zero table. -/
def slots (r : RuleSlot) : List RuleSlot := r :: List.replicate 7 RuleSlot.zero

/-- The rules of vector A14. -/
def rulesA14 : List RuleSlot :=
  [⟨0, 20, 10, 0⟩, ⟨90, 10, 20, 0⟩, ⟨0, 1, 128, 0⟩] ++ List.replicate 5 RuleSlot.zero

/-! ## One test or two per command -/

/-- A18. -/
theorem test_nop : statusAfter .nop u0 = some (0x00000002, 0) := by decide +kernel

/-- S10: a NOP while BUSY = 1. -/
theorem test_nop_busy :
    statusAfter .nop { u0 with cmd := 8, status := { Status.reset with busy := true } } =
      some (0x00000009, 8) := by decide +kernel

/-- RGB2HSV of pure green (R110). -/
theorem test_rgb2hsv_green :
    (unitAfter .rgb2hsv { u0 with pixIn := 0x07E0 }).map (fun v => (v.hsvOut.word, v.status.word)) =
      some (0x00FFFF55, 0x00000002) := by decide +kernel

/-- The hue division truncates toward zero (R106). -/
theorem test_rgb2hsv_truncates :
    (unitAfter .rgb2hsv { u0 with pixIn := 0xF801 }).map (·.hsvOut.word) = some 0x00FFFFFF := by
  decide +kernel

/-- HSV2RGB, the example of R120. -/
theorem test_hsv2rgb_orange :
    (unitAfter .hsv2rgb { u0 with hsvIn := ⟨20, 255, 255⟩ }).map (·.pixOut) = some 0xFBC0 := by
  decide +kernel

/-- HSV2RGB in region 2, with all three intermediates in use. -/
theorem test_hsv2rgb_region2 :
    (unitAfter .hsv2rgb { u0 with hsvIn := ⟨100, 128, 200⟩ }).map (·.pixOut) = some 0x6650 := by
  decide +kernel

/-- INBAND across the wrap of the hue ring, the example of R133. -/
theorem test_inband_wraps :
    (unitAfter (.inband 2) { u0 with
        hsvIn := ⟨251, 0, 0⟩, rules := [RuleSlot.zero, RuleSlot.zero, ⟨5, 0, 10, 0⟩] }).map
      (·.status.word) = some 0x00002102 := by decide +kernel

/-- INBAND at the antipode with radius 127. -/
theorem test_inband_antipode :
    (unitAfter (.inband 0) { u0 with hsvIn := ⟨128, 0, 0⟩, rules := slots ⟨0, 0, 127, 0⟩ }).map
      (·.status.word) = some 0x00000002 := by decide +kernel

/-- A1. -/
theorem test_pxshift_hue :
    (unitAfter .pxshift { u0 with pixIn := 0xF800, gHueShift := 20 }).map
      (fun v => (v.pixOut, v.hsvOut.word, v.status.word)) =
      some (0xFBC0, 0x00FFFF00, 0x00000102) := by decide +kernel

/-- A7: SAT_SHIFT is signed. -/
theorem test_pxshift_sat :
    (unitAfter .pxshift { u0 with pixIn := 0xF800, gSatShift := 0xFF9C }).map (·.pixOut) = some 0xFB2C := by
  decide +kernel

/-- A12: an unmatched pixel is copied. -/
theorem test_pxband_unmatched :
    (unitAfter (.pxband 0) { u0 with pixIn := 0x07E0, rules := slots ⟨0, 20, 10, 0⟩ }).map
      (fun v => (v.pixOut, v.status.word)) = some (0x07E0, 0x00000002) := by decide +kernel

/-- A13. -/
theorem test_pxband_slot3 :
    (unitAfter (.pxband 3) { u0 with
        pixIn := 0x001F, rules := [⟨0, 0, 0, 0⟩, ⟨0, 0, 0, 0⟩, ⟨0, 0, 0, 0⟩, ⟨170, 0xD6, 5, 0xFF80⟩] }).map
      (fun v => (v.pixOut, v.hsvOut.word, v.status.word)) =
      some (0x7FFF, 0x00FFFFAB, 0x00003102) := by decide +kernel

/-- A14: the first rule that matches is slot 1. -/
theorem test_pxmulti_first :
    (unitAfter .pxmulti { u0 with pixIn := 0x07E0, rules := rulesA14, ruleCount := 3 }).map
      (fun v => (v.pixOut, v.status.word)) = some (0x07E6, 0x00001102) := by decide +kernel

/-- A16: slot 2 would match but is not below COUNT. -/
theorem test_pxmulti_count :
    (unitAfter .pxmulti { u0 with pixIn := 0x001F, rules := rulesA14, ruleCount := 2 }).map
      (fun v => (v.pixOut, v.status.word)) = some (0x001F, 0x00000002) := by decide +kernel

/-- X22 and X23: the range check at the top of memory. -/
theorem test_bufshift_range :
    statusAfter .bufshift { u0 with bufBase := 0xFFFFFFFE, bufLen := 2 } = some (0x00000066, 0) ∧
      statusAfter .bufshift { u0 with bufBase := 0x80000000, bufLen := 0x40000000 } =
        some (0x00000001, 8) := by decide +kernel

/-- X18: an odd base. -/
theorem test_bufshift_align :
    statusAfter .bufshift { u0 with bufBase := 0x1001, bufLen := 1 } = some (0x00000056, 0) := by
  decide +kernel

/-- X14: a no-op with a null buffer. -/
theorem test_bufband_noop : statusAfter (.bufband 7) u0 = some (0x00000002, 0x79) := by decide +kernel

/-- X15, X16 and X26: RULE_COUNT, and the empty rule list before ALIGN. -/
theorem test_bufmulti_count :
    statusAfter .bufmulti { u0 with ruleCount := 255 } = some (0x00000046, 0) ∧
      statusAfter .bufmulti { u0 with bufBase := 0x1001, bufLen := 1 } = some (0x00000002, 0xA) := by
  decide +kernel

/-! ## Engine steps -/

/-- The pixels 0xF800, 0x07E0 from 0x1000 on, low bytes first. -/
def twoPixels : Memory := [(0x1000, 0x00), (0x1001, 0xF8), (0x1002, 0xE0), (0x1003, 0x07)]

/-- A unit that runs the command with this word over the two pixels. -/
def runningUnit (w : Word) : Block :=
  { u0 with cmd := w, bufBase := 0x1000, bufLen := 2, status := { Status.reset with busy := true },
            gHueShift := 20, rules := slots ⟨0, 20, 10, 0⟩, ruleCount := 1, before := twoPixels }

/-- The platform with that unit. -/
def running (w : Word) : State := { withUnit (runningUnit w) with mem := twoPixels }

/-- Memory and the counters after `n` engine steps. -/
def engineAfter (w : Word) (n : Nat) : Option (Memory × List (Word × Word × Word)) :=
  (State.engineSteps (running w) 0 n).map fun t =>
    (t.mem, t.units.map fun u => (u.status.word, u.progress, u.matchCount))

/-- B1, its first pixel: 0xF800 becomes 0xFBC0. -/
theorem test_engine_bufshift :
    engineAfter 8 1 =
      some ([(0x1000, 0xC0), (0x1001, 0xFB), (0x1002, 0xE0), (0x1003, 0x07)], [(0x00000001, 1, 1)]) := by
  decide +kernel

/-- The last two pixels of P1: red matches, green is not written; BUSY falls and DONE rises. -/
theorem test_engine_bufband :
    engineAfter 9 2 =
      some ([(0x1000, 0xC0), (0x1001, 0xFB), (0x1002, 0xE0), (0x1003, 0x07)], [(0x00000002, 2, 1)]) := by
  decide +kernel

/-- The same by BUFMULTI (R149(e)). -/
theorem test_engine_bufmulti : engineAfter 10 2 = engineAfter 9 2 := by decide +kernel

/-! ## Registers and steps -/

/-- S3, S4: reserved bits of PIX_IN and GSHIFT. -/
theorem test_reserved_bits :
    (u0.writeAt 8 0x0C 0xFFFFFFFF).readAt 8 0x0C = 0x0000FFFF ∧
      (u0.writeAt 8 0x24 0xFFFFFFFF).readAt 8 0x24 = 0xFFFF00FF := by decide +kernel

/-- S6: STATUS 0x0000011E and a write of bit 2. -/
theorem test_status_clear :
    (Block.writeAt { u0 with status := ⟨false, true, true, true, 1, true, 0⟩ } 8 0x08 4).readAt 8 0x08 =
      0x0000010A := by decide +kernel

/-- S8: an ignored write. -/
theorem test_busy_write :
    (((runningUnit 8).writeAt 8 0x20 1).readAt 8 0x08, ((runningUnit 8).writeAt 8 0x20 1).bufLen) =
      (0x00000009, 2) := by decide +kernel

/-- The byte order of a pixel in memory (R62). -/
theorem test_byte_order :
    Memory.writePixel .little [] 16 0xFBC0 = [(16, 0xC0), (17, 0xFB)] ∧
      Memory.writePixel .big [] 16 0xFBC0 = [(16, 0xFB), (17, 0xC0)] := by decide

/-- A placed word runs in the next step: RGB2HSV after reset leaves STATUS 0x00000002 (R233). -/
theorem test_with_fetch_word :
    (nextState (step (State.reset.withFetchWord 32 0x00000001))).map
      (fun t => t.units.map fun u => (u.cmd, u.status.word)) = some [(0x00000001, 0x00000002)] := by
  decide +kernel

/-- The pseudo-instruction `rule 0, 0, 20, 10, 0` of P1 (R89). -/
theorem test_rule_expands :
    HostStmt.expand 0x40000000 0 (.rule 0 0 20 10 0) =
      [.regWrite 0x40000040 .b32 0x000A1400, .regWrite 0x40000044 .b32 0] := by decide +kernel

/-! ## The hypotheses of the statements are met -/

/-- The registers after reset in the state after reset: what most statements ask of a unit. -/
theorem test_hyp_idle : State.reset.Idle u0 := by decide +kernel

/-- DecodeEncodeRoundTrip. -/
theorem test_hyp_round_trip : Instr.wf 8 (.bufband 7) = true := by decide

/-- DecodeChecksInOrder, CanonicalWords, at the ends of the ranges of opcode and index. -/
theorem test_hyp_decode_clauses :
    decode 8 0x0000000A = .ok .bufmulti ∧ decode 8 0x00000073 = .ok (.inband 7) ∧
      decode 16 0x000000F9 = .ok (.bufband 15) ∧ decode 15 0x000000F9 = .error .ruleIndex ∧
      decode 8 0xFFFFFFF7 = .error .illegalOp ∧ decode 8 0xFFFFFFFA = .error .reservedBits := by decide

/-- StepRunsDecodedCommand. -/
theorem test_hyp_step_runs :
    let s := { State.reset with agenda := [.regWrite (0x40000000 + 0x04) .b32 0x25] }
    s.cfg.legal = true ∧ s.cfg.regBases[0]? = some 0x40000000 ∧ s.units[0]? = some u0 ∧
      u0.status.busy = false ∧ decode s.cfg.maxRules 0x25 = .ok (.pxband 2) := by decide +kernel

/-- UndecodableWordRejected: opcode 7. -/
theorem test_hyp_undecodable :
    let s := { State.reset with agenda := [.regWrite (0x40000000 + 0x04) .b32 7] }
    s.cfg.legal = true ∧ s.cfg.regBases[0]? = some 0x40000000 ∧ s.units[0]? = some u0 ∧
      u0.status.busy = false ∧ decode s.cfg.maxRules 7 = .error .illegalOp := by decide +kernel

/-- InbandResult, PxbandResult: the last slot. -/
theorem test_hyp_slot : State.reset.Idle u0 ∧ (7 : RuleIdx).toNat < State.reset.cfg.maxRules := by
  decide +kernel

/-- The unit of A14. -/
def unitA14 : Block := { u0 with pixIn := 0x07E0, rules := rulesA14, ruleCount := 3 }

/-- PxmultiFirstMatch, with slot 1 the first to match. -/
theorem test_hyp_first_match :
    let s := withUnit unitA14
    let x := rgb565ToHsv s.cfg.lutMode unitA14.pixIn
    s.Idle unitA14 ∧ unitA14.ruleCount.toNat ≤ s.cfg.maxRules ∧ s.cfg.maxRules ≤ 16 ∧
      unitA14.rules.length = s.cfg.maxRules ∧ 1 < unitA14.ruleCount.toNat ∧
      inBand x.h (unitA14.ruleAt 1).target (unitA14.ruleAt 1).radius = true ∧
      ∀ j, j < 1 → inBand x.h (unitA14.ruleAt j).target (unitA14.ruleAt j).radius = false := by
  decide +kernel

/-- PxmultiNoMatch: the two rules of A16, and no rules. -/
theorem test_hyp_no_match :
    let u := { unitA14 with pixIn := 0x001F, ruleCount := 2 }
    let x := rgb565ToHsv .round u.pixIn
    (withUnit u).Idle u ∧ u.ruleCount.toNat ≤ 8 ∧ u.rules.length = 8 ∧
      (∀ j, j < u.ruleCount.toNat → inBand x.h (u.ruleAt j).target (u.ruleAt j).radius = false) ∧
      ∀ j, j < u0.ruleCount.toNat → inBand x.h (u0.ruleAt j).target (u0.ruleAt j).radius = false := by
  decide +kernel

/-- SinglePixelFrame: an accepted command, and its three premises. -/
theorem test_hyp_single_frame :
    State.reset.units[State.reset.sel]? = some u0 ∧ Instr.pxmulti.opcode.toNat ≤ 6 ∧
      (∃ t, exec .pxmulti State.reset = .next t) ∧ u0.status.busy = false ∧
      Instr.wf State.reset.cfg.maxRules .pxmulti = true ∧ u0.ruleCount.toNat ≤ State.reset.cfg.maxRules :=
  ⟨rfl, by decide, ⟨_, rfl⟩, rfl, rfl, by decide⟩

/-- BusyUnitIgnoresCommands. -/
theorem test_hyp_busy :
    (running 8).units[(running 8).sel]? = some (runningUnit 8) ∧ (runningUnit 8).status.busy = true := by
  decide +kernel

/-- RuleIndexRejected. -/
theorem test_hyp_rule_index : State.reset.Idle u0 ∧ State.reset.cfg.maxRules ≤ (8 : RuleIdx).toNat := by
  decide +kernel

/-- RuleCountRejected. -/
theorem test_hyp_rule_count :
    let u := { u0 with ruleCount := 9 }
    (withUnit u).Idle u ∧ (withUnit u).cfg.maxRules < u.ruleCount.toNat := by decide +kernel

/-- An idle unit with a buffer. -/
def bufferUnit (base len : Word) : Block := { u0 with bufBase := base, bufLen := len, ruleCount := 1 }

/-- BufferChecksInOrder: each of its four cases for BUFMULTI, at the values where they meet: an odd base with no
pixels is a no-op; with one pixel it is ALIGN though it is also outside; an even one is RANGE by the top of memory
and by admission; the last admitted pixel is accepted. -/
theorem test_hyp_buffer_checks :
    let s := fun b l => withUnit (bufferUnit b l)
    (s 0xFFFFFFFF 0).Idle (bufferUnit 0xFFFFFFFF 0) ∧ (bufferUnit 0xFFFFFFFF 0).bufLen = 0 ∧
      (s 0xFFFFFFFF 1).Idle (bufferUnit 0xFFFFFFFF 1) ∧
      (bufferUnit 0xFFFFFFFF 1).bufBase.toNat % 2 = 1 ∧
      (s 0xFFFFFFFE 2).Idle (bufferUnit 0xFFFFFFFE 2) ∧ 2 ^ 32 < 0xFFFFFFFE + 2 * 2 ∧
      (s 0x3FFFFFFE 2).Idle (bufferUnit 0x3FFFFFFE 2) ∧
      (s 0x3FFFFFFE 2).cfg.memAdmit 0x40000000 = false ∧
      (s 0x3FFFFFFE 1).cfg.rangeAdmit 0x3FFFFFFE 0x40000000 = true ∧
      (bufferUnit 0x3FFFFFFE 1).ruleCount.toNat ≤ 8 := by decide +kernel

/-- BufferNoop: each of its three grounds, the last one with an odd base. -/
theorem test_hyp_noop :
    (withUnit (bufferUnit 0 5)).Idle (bufferUnit 0 5) ∧ (bufferUnit 0 5).bufBase = 0 ∧
      (withUnit (bufferUnit 0x1001 0)).Idle (bufferUnit 0x1001 0) ∧ (bufferUnit 0x1001 0).bufLen = 0 ∧
      (withUnit { bufferUnit 0x1001 1 with ruleCount := 0 }).Idle
        { bufferUnit 0x1001 1 with ruleCount := 0 } ∧
      8 ≤ Instr.bufmulti.opcode.toNat ∧ Instr.wf 8 .bufmulti = true ∧
      (bufferUnit 0 5).ruleCount.toNat ≤ 8 := by decide +kernel

/-- BufferAccepted: BUFMULTI with one rule over two pixels. -/
theorem test_hyp_accepted :
    let u := bufferUnit 0x1000 2
    let s := withUnit u
    s.Idle u ∧ Instr.wf s.cfg.maxRules .bufmulti = true ∧ u.ruleCount ≠ 0 ∧
      u.ruleCount.toNat ≤ s.cfg.maxRules ∧ u.bufBase ≠ 0 ∧ u.bufLen ≠ 0 ∧ u.bufBase.toNat % 2 = 0 ∧
      u.bufBase.toNat + 2 * u.bufLen.toNat ≤ 2 ^ 32 ∧
      ∀ a, u.bufBase.toNat ≤ a → a < u.bufBase.toNat + 2 * u.bufLen.toNat → s.cfg.memAdmit a = true :=
  ⟨by decide +kernel, rfl, by decide, by decide, by decide, by decide, by decide, by decide,
    Config.memAdmit_of_rangeAdmit (by decide +kernel)⟩

/-- BufferIssueFrame. -/
theorem test_hyp_issue_frame :
    State.reset.units[State.reset.sel]? = some u0 ∧ 8 ≤ Instr.bufshift.opcode.toNat ∧
      ∃ t, exec .bufshift State.reset = .next t := ⟨rfl, by decide, ⟨_, rfl⟩⟩

/-- EngineStepResult: BUSY = 0, and each of the three commands. -/
theorem test_hyp_engine :
    State.reset.units[0]? = some u0 ∧ u0.status.busy = false ∧
      ([8, 9, 10] : List Word).all (fun w =>
        (running w).units[0]? = some (runningUnit w) && (runningUnit w).status.busy &&
        (runningUnit w).progress.toNat < (runningUnit w).bufLen.toNat &&
        (running w).cfg.memAdmit 0x1000 && (running w).cfg.memAdmit (0x1000 + 1)) = true ∧
      (opField (runningUnit 8).cmd).toNat = 8 ∧ (opField (runningUnit 9).cmd).toNat = 9 ∧
      (opField (runningUnit 10).cmd).toNat = 10 := by
  decide +kernel

/-- Two units at work on neighbouring pixels. -/
def twoUnits : State :=
  { State.reset with
      cfg := { resetConfig with
                 regBases := [0x40000000, 0x40000100],
                 admitted := [{ base := 0, size := 0x40000000 }] },
      units := [{ runningUnit 8 with bufLen := 1 }, { runningUnit 8 with bufBase := 0x1002, bufLen := 1 }],
      mem := twoPixels }

/-- EngineStepResult: an engine transition to come, and none with the second unit the first that is busy. -/
theorem test_hyp_engine_step :
    let s := { running 8 with agenda := [.engine 0] }
    let s' := { twoUnits with units := [u0, runningUnit 9] }
    s.cfg.legal = true ∧ s.units[0]? = some (runningUnit 8) ∧ s'.cfg.legal = true ∧ s'.agenda = [] ∧
      s'.units[1]? = some (runningUnit 9) ∧ (runningUnit 9).status.busy = true ∧
      (s'.units[0]?).map (·.status.busy) = some false := by decide +kernel

/-- EngineStepFrame: a matched and an unmatched pixel. -/
theorem test_hyp_engine_frame :
    (running 9).units[0]? = some (runningUnit 9) ∧
      (nextState ((running 9).engineStep 0)).isSome = true ∧
      (runningUnit 9).pixelMatched .round 0xF800 = true ∧
      (runningUnit 9).pixelMatched .round 0x07E0 = false := by decide +kernel

/-- EngineNeverStuck, BufferAfterEngineSteps, RunningCommandsComplete: a command that has just started. -/
theorem test_hyp_running :
    (running 10).Inv ∧ (running 10).units[0]? = some (runningUnit 10) ∧
      (runningUnit 10).status.busy = true ∧ (runningUnit 10).progress = 0 ∧
      (runningUnit 10).matchCount = 0 ∧ 2 ≤ (runningUnit 10).bufLen.toNat ∧ (running 10).agenda = [] := by
  decide +kernel

/-- BufferOfOneIsSinglePixel. -/
theorem test_hyp_one_pixel :
    let u := { bufferUnit 0x1000 1 with pixIn := 0xF800 }
    let s := { withUnit u with mem := twoPixels }
    s.Inv ∧ s.Idle u ∧ Instr.wf s.cfg.maxRules (.bufband 7) = true ∧ u.ruleCount ≠ 0 ∧
      u.ruleCount.toNat ≤ s.cfg.maxRules ∧ u.bufLen = 1 ∧ u.bufBase ≠ 0 ∧ u.bufBase.toNat % 2 = 0 ∧
      u.bufBase.toNat + 2 ≤ 2 ^ 32 ∧ s.cfg.memAdmit u.bufBase.toNat = true ∧
      s.cfg.memAdmit (u.bufBase.toNat + 1) = true ∧
      u.pixIn = Memory.readPixel s.cfg.byteOrder s.mem u.bufBase.toNat := by decide +kernel

/-- EnginesCommute, BusyRangesStayDisjoint. -/
theorem test_hyp_two_units :
    twoUnits.Inv ∧ twoUnits.Disjoint ∧ (twoUnits.units.map fun u => u.status.busy) = [true, true] := by
  decide +kernel

/-- BusyRangesStayDisjoint: a step of these units that records no overlap. -/
theorem test_hyp_disjoint_step :
    (nextState (step twoUnits)).map (·.unitOverlap) = some false := by decide +kernel

/-- OtherAccessesRefused: each of its grounds, and the first address after the block. -/
theorem test_hyp_refused :
    resetConfig.legal = true ∧ 0x40000002 % 4 ≠ 0 ∧
      (∀ base ∈ resetConfig.regBases, 0x40000100 < base ∨ base + 256 ≤ 0x40000100) ∧
      ∀ base ∈ resetConfig.regBases, 0x3FFFFFFC < base ∨ base + 256 ≤ 0x3FFFFFFC := by decide +kernel

/-- RegisterWriteReachesUnit, RegisterReadReturns: the first offset of the first unit, the last one of the second. -/
theorem test_hyp_access :
    let s := { twoUnits with agenda := [.regWrite (0x40000100 + 0xFC) .b32 1] }
    let s' := { twoUnits with agenda := [.regRead (0x40000000 + 0x00) .b32] }
    s.cfg.legal = true ∧ s.cfg.regBases[1]? = some 0x40000100 ∧ (s.units[1]?).isSome = true ∧
      s'.cfg.regBases[0]? = some 0x40000000 ∧ (s'.units[0]?).isSome = true ∧
      (0xFC < 256 ∧ 0xFC % 4 = 0 ∧ 0xFC ≠ 0x04) := by decide +kernel

/-- ReadOnlyAndReserved: the first reserved offset after the rule table, with 8 and with 16 slots. -/
theorem test_hyp_reserved :
    0x40 + 8 * 8 ≤ 0x80 ∧ RegName.ofOffset 8 0x80 = none ∧ RegName.ofOffset 8 0x7C = some (.ruleB 7) ∧
      0x40 + 8 * 16 ≤ 0xC0 ∧ RegName.ofOffset 16 0xC0 = none ∧ RegName.ofOffset 16 0xBC = some (.ruleB 15) ∧
      RegName.ofOffset 8 0x34 = none := by decide

/-- BusyWritesIgnored: a write to `RULE_B[7]` of a running unit. -/
theorem test_hyp_busy_write :
    let s := { running 8 with agenda := [.regWrite (0x40000000 + 0x7C) .b32 1] }
    s.cfg.legal = true ∧ s.cfg.regBases[0]? = some 0x40000000 ∧ s.units[0]? = some (runningUnit 8) ∧
      (runningUnit 8).status.busy = true ∧ (7 < s.cfg.maxRules ∧ 0x7C = 0x44 + 8 * 7) := by decide +kernel

/-- RegisterReadReturns: the last slot of a table, with `MAX_RULES` 8 and 16. -/
theorem test_hyp_read_rules :
    (7 < 8 ∧ (Block.reset 8).rules[7]? = some RuleSlot.zero) ∧
      (15 < 16 ∧ (Block.reset 16).rules[15]? = some RuleSlot.zero) := by decide

/-- WrittenRegistersReadBack. -/
theorem test_hyp_read_back : 8 ≤ 16 ∧ u0.rules.length = 8 ∧ u0.status.busy = false ∧ 7 < 8 := by decide

/-- ResetReadsZero, at the first and the last offset. -/
theorem test_hyp_reset_reads : (Block.reset 16).readAt 16 0 = idValue ∧ (Block.reset 16).readAt 16 0xFC = 0 := by
  decide +kernel

/-- ResetOfUnit: reset while BUSY = 1. -/
theorem test_hyp_reset :
    (running 8).cfg.legal = true ∧ 0 < (running 8).units.length ∧
      ({ running 8 with agenda := [.reset 0] } : State).agenda = [.reset 0] := by decide +kernel

/-- FirstCommandsAfterReset. -/
theorem test_hyp_after_reset :
    State.reset.Idle u0 ∧ u0 = Block.reset State.reset.cfg.maxRules ∧ 1 ≤ State.reset.cfg.maxRules ∧
      Instr.wf State.reset.cfg.maxRules (.bufband 7) = true := by decide +kernel

/-- RacingReadOldOrNew: the last pixel of a running command, no other unit being busy. -/
theorem test_hyp_racing_read :
    let s := { running 8 with agenda := [.memRead ((runningUnit 8).ea 1)] }
    s.Inv ∧ s.units[0]? = some (runningUnit 8) ∧ (runningUnit 8).status.busy = true ∧
      1 < (runningUnit 8).bufLen.toNat ∧
      ∀ i v, i ≠ 0 → s.units[i]? = some v → v.status.busy = true → (runningUnit 8).overlaps v = false := by
  refine ⟨by decide +kernel, by decide +kernel, by decide, by decide, fun i v hi hv => ?_⟩
  have hl := (List.getElem?_eq_some_iff.mp hv).1
  exact absurd (Nat.lt_one_iff.mp hl) hi

/-- HostAccessOutsideActiveRange: the last two bytes before the buffer of a running command and the first two
after it. -/
theorem test_hyp_outside :
    (running 8).cfg.legal = true ∧
      [0xFFE, 0xFFF, 0x1004, 0x1005].all (fun a => (running 8).cfg.memAdmit a &&
        (running 8).units.all fun u => u.status.busy && !decide (u.inBuffer a)) = true := by decide +kernel

/-- RacingWriteRecorded: the first byte and the last; a pixel before the buffer that reaches into it, the first
pixel, and a pixel that begins at the last byte; and a byte of each of the outer two that is stored. -/
theorem test_hyp_racing_write :
    (running 8).cfg.legal = true ∧ runningUnit 8 ∈ (running 8).units ∧
      (runningUnit 8).status.busy = true ∧
      [0xFFF, 0x1000, 0x1001, 0x1003, 0x1004].all (running 8).cfg.memAdmit = true ∧
      (runningUnit 8).inBuffer 0x1000 ∧ (runningUnit 8).inBuffer 0x1001 ∧
      (runningUnit 8).inBuffer 0x1003 ∧ ¬ (runningUnit 8).inBuffer 0xFFF ∧
      ¬ (runningUnit 8).inBuffer 0x1004 := by decide +kernel

/-- ValueAndAchromatic, RoundTripBound, AdjustLaws: an achromatic pixel. -/
theorem test_hyp_achromatic :
    (rgb565ToHsv .round 0x3186).s = 0 ∧ (rgb565ToHsv .replicate 0x18C3).s = 0 ∧
      hsvToRgb565 (rgb565ToHsv .round 0x3186) = 0x3186 := by decide +kernel

/-- HueSectors, ValueAndAchromatic: a pixel of each of the three kinds, by the expanded channels. -/
theorem test_hyp_sectors :
    expand .round 0xF801 = ⟨255, 0, 8⟩ ∧ expand .round 0x07FF = ⟨0, 255, 255⟩ ∧
      expand .round 0x1234 = ⟨16, 69, 165⟩ := by decide +kernel

/-- GrayIgnoresHue: gray, and S not 0 at the ends of the first region and of the last (R116, R117, R120). -/
theorem test_hyp_regions :
    hsvToRgb565 ⟨99, 0, 200⟩ = 0xCE59 ∧ hsvToRgb565 ⟨0, 255, 255⟩ = 0xF800 ∧
      hsvToRgb565 ⟨20, 255, 255⟩ = 0xFBC0 ∧ 42 / 43 = 0 ∧ 43 / 43 = 1 ∧ 214 / 43 = 4 ∧ 215 / 43 = 5 ∧
      255 / 43 = 5 ∧ 255 % 43 * 6 = 240 := by decide +kernel

/-- InBandLaws: radii that meet its hypotheses, and the clauses at their ends (E8). -/
theorem test_hyp_radius :
    inBand 128 0 128 = true ∧ inBand 128 0 127 = false ∧ inBand 0 0 0 = true ∧ inBand 1 0 0 = false := by
  decide

/-- ShiftLaws: E9. -/
theorem test_hyp_shift :
    shiftHsv ⟨250, 100, 9⟩ 10 (200 : BitVec 16).toInt = ⟨4, 255, 9⟩ ∧
      shiftHsv ⟨5, 100, 9⟩ 0xF6 (-300 : BitVec 16).toInt = ⟨251, 0, 9⟩ ∧
      (-255 : BitVec 16).toInt ≤ -255 ∧ 255 ≤ (255 : BitVec 16).toInt := by decide +kernel

/-- AdjustLaws: two rules that both match, and a radius of 128. -/
theorem test_hyp_adjust :
    RuleSlot.covers .round ⟨90, 10, 20, 0⟩ 0x07E0 = true ∧ RuleSlot.covers .round ⟨0, 1, 128, 0⟩ 0x07E0 = true ∧
      ((rgb565ToHsv .round 0x8410).s.toNat : Int) + (-3) ≤ 0 := by decide +kernel

/-- StepKeepsInvariant, ParametersAndFaultsStay: a step of a running platform. -/
theorem test_hyp_step :
    (running 9).Inv ∧ (nextState (step (running 9))).isSome = true ∧
      (nextState (step { running 9 with hostRace := true, unitOverlap := true })).isSome = true :=
  ⟨by decide +kernel, by decide +kernel, by decide +kernel⟩

/-- `running 9` after one engine step: one pixel is finished, one is to come. -/
def halfway : State := (nextState (step (running 9))).getD State.reset

/-- FinishedPixelsStayFinal: from there. -/
theorem test_hyp_progressed :
    halfway.Inv ∧ halfway.Disjoint ∧ (∀ u ∈ halfway.units, u.Progressed halfway.cfg halfway.mem) ∧
      (halfway.units.map fun u => (u.progress, u.matchCount, u.status.busy)) = [(1, 1, true)] ∧
      (nextState (step halfway)).map (·.hostRace) = some false := by decide +kernel

/-- NothingStopsARunningCommand: a command word written to a running unit. -/
theorem test_hyp_running_step :
    let s := { running 8 with agenda := [.regWrite 0x40000004 .b32 0] }
    s.units[0]? = some (runningUnit 8) ∧ (runningUnit 8).status.busy = true ∧
      (nextState (step s)).isSome = true := by decide +kernel

/-- IdlePlatformHolds. -/
theorem test_hyp_idle_platform :
    State.reset.cfg.legal = true ∧ State.reset.agenda = [] ∧
      ∀ u ∈ State.reset.units, u.status.busy = false := by decide +kernel

/-- IllegalParametersRefused: each of its grounds; the last one admits the first byte of the block. -/
theorem test_hyp_illegal :
    ({ resetConfig with maxRules := 17 } : Config).maxRules = 17 ∧ 0x40000004 % 256 ≠ 0 ∧
      ({ resetConfig with admitted := [{ base := 0, size := 0x40000001 }] } : Config).memAdmit 0x40000000 = true ∧
      ({ resetConfig with maxRules := 0 } : Config).legal = false ∧
      ({ resetConfig with maxRules := 17 } : Config).legal = false ∧
      ({ resetConfig with maxRules := 16 } : Config).legal = true ∧
      ({ resetConfig with regBases := [] } : Config).legal = false ∧
      ({ resetConfig with regBases := [0x40000004] } : Config).legal = false ∧
      ({ resetConfig with admitted := [{ base := 0, size := 0x40000001 }] } : Config).legal = false := by
  decide +kernel

end Sys2Proof.Tests
end

section
/-! Register writes by offset (10_state.md R21 to R30): which register an offset names, what a write there does to a
unit, and the step of the platform that the write is. -/

namespace Sys2Proof.Machine

/-! ## From an offset to its register -/

theorem Block.writeAt_of_ofOffset {n off : Nat} {r : RegName} (h : RegName.ofOffset n off = some r)
    (u : Block) (w : Word) : u.writeAt n off w = u.writeReg r w := by
  simp [Block.writeAt, h]

theorem Block.writeAt_of_reserved {n off : Nat} (h : RegName.ofOffset n off = none) (u : Block) (w : Word) :
    u.writeAt n off w = u := by
  simp [Block.writeAt, h]

theorem Block.readAt_of_ofOffset {n off : Nat} {r : RegName} (h : RegName.ofOffset n off = some r)
    (u : Block) : u.readAt n off = u.readReg r := by
  simp [Block.readAt, h]

theorem Block.readAt_of_reserved {n off : Nat} (h : RegName.ofOffset n off = none) (u : Block) :
    u.readAt n off = 0 := by
  simp [Block.readAt, h]

/-- The reserved offsets are those between `PROGRESS` and the rule table and those past the table (R28). -/
theorem RegName.ofOffset_reserved {n off : Nat}
    (h : off = 0x34 ∨ off = 0x38 ∨ off = 0x3C ∨ 0x40 + 8 * n ≤ off) : RegName.ofOffset n off = none := by
  obtain rfl | rfl | rfl | hpast := h
  · rfl
  · rfl
  · rfl
  · unfold RegName.ofOffset
    rw [if_pos (by omega), if_neg (by omega)]

/-! ## The kinds of registers -/

/-- The registers the host cannot write (R25). -/
def RegName.isReadOnly : RegName → Bool
  | .id | .pixOut | .hsvOut | .matchCount | .progress => true
  | _ => false

/-- The registers that a write changes only while BUSY = 0 (R26), but for `CMD`, whose writes issue commands. -/
def RegName.isHeldWhileBusy : RegName → Bool
  | .pixIn | .hsvIn | .bufBase | .bufLen | .gshift | .ruleCount | .ruleA _ | .ruleB _ => true
  | _ => false

theorem RegName.ofOffset_readOnly {n off : Nat}
    (h : off = 0x00 ∨ off = 0x14 ∨ off = 0x18 ∨ off = 0x2C ∨ off = 0x30) :
    ∃ r, RegName.ofOffset n off = some r ∧ r.isReadOnly = true := by
  rcases h with rfl | rfl | rfl | rfl | rfl <;> exact ⟨_, rfl, rfl⟩

theorem RegName.ofOffset_heldWhileBusy {n off : Nat}
    (h : off = 0x0C ∨ off = 0x10 ∨ off = 0x1C ∨ off = 0x20 ∨ off = 0x24 ∨ off = 0x28 ∨
      ∃ i, i < n ∧ (off = 0x40 + 8 * i ∨ off = 0x44 + 8 * i)) :
    ∃ r, RegName.ofOffset n off = some r ∧ r.isHeldWhileBusy = true := by
  rcases h with rfl | rfl | rfl | rfl | rfl | rfl | ⟨i, hi, rfl | rfl⟩
  iterate 6 exact ⟨_, rfl, rfl⟩
  · exact ⟨.ruleA i, RegName.ofOffset_ruleA hi, rfl⟩
  · exact ⟨.ruleB i, RegName.ofOffset_ruleB hi, rfl⟩

theorem Block.writeReg_readOnly {r : RegName} (hr : r.isReadOnly = true) (u : Block) (w : Word) :
    u.writeReg r w = u := by
  cases r <;> simp only [RegName.isReadOnly, reduceCtorEq] at hr <;> rfl

theorem Block.writeReg_heldWhileBusy {r : RegName} (hr : r.isHeldWhileBusy = true) {u : Block}
    (hb : u.status.busy = true) (w : Word) : u.writeReg r w = u.ignoreWrite := by
  cases r <;> simp only [RegName.isHeldWhileBusy, reduceCtorEq] at hr <;> exact if_pos hb

/-- How `Block.writeStatus` clears a flag by a bit of the word (R30), as R30 says it. -/
theorem and_not_eq_ite_false (flag bit : Bool) : (flag && !bit) = if bit then false else flag := by
  cases bit <;> simp

/-! ## The step of a register write -/

/-- A word written to `CMD` of a busy unit is ignored, whether it decodes or not (R26). -/
theorem State.issue_busy {s : State} {u : Block} (hu : s.units[s.sel]? = some u) (hb : u.status.busy = true)
    (w : Word) : s.issue w = .next (s.setUnit u.ignoreWrite) := by
  simp [State.issue, hu, hb]

/-- An aligned 32-bit write to a unit's block issues the word at the offset of `CMD` (R27) and is `Block.writeAt` at
every other one (R22). -/
theorem step_regWrite {s : State} {k base off : Nat} {w : Word} {rest : List Event} {u : Block}
    (hl : s.cfg.legal = true) (hk : s.cfg.regBases[k]? = some base) (hu : s.units[k]? = some u)
    (ho : off < 256) (ha : off % 4 = 0) (hag : s.agenda = .regWrite (base + off) .b32 w :: rest) :
    step s =
      if off = 0x04 then State.issue { s with agenda := rest, sel := k } w
      else .next { s with agenda := rest, sel := k,
                          units := s.units.set k (u.writeAt s.cfg.maxRules off w) } := by
  rw [step_perform hl hag]
  simp only [State.perform, State.regWrite, Config.route_base hl hk ho ha, hu]
  rfl

/-! ## The statements -/

/-- Settles O32: a read-only register keeps its value whatever is written, and a reserved offset names no register. -/
theorem readOnlyAndReserved : Obligations.ReadOnlyAndReserved := by
  intro n off u w _ _ _ _
  refine ⟨fun hoff => ?_, fun hoff => ?_, Block.readAt_of_ofOffset (r := .id) rfl u⟩
  · obtain ⟨r, hr, hro⟩ := RegName.ofOffset_readOnly (n := n) hoff
    rw [Block.writeAt_of_ofOffset hr, Block.writeReg_readOnly hro]
  · have hnone := RegName.ofOffset_reserved hoff
    exact ⟨Block.writeAt_of_reserved hnone u w, Block.readAt_of_reserved hnone u⟩

/-- Settles O33: the word written to `CMD` is ignored when it is issued, every other one by the register it is for. -/
theorem busyWritesIgnored : Obligations.BusyWritesIgnored := by
  intro s k base off w rest u hl hk hu hb hoff hag
  have hn : s.cfg.maxRules ≤ 16 := (s.cfg.legal_iff.mp hl).2.1
  obtain rfl | hheld := hoff
  · rw [step_regWrite hl hk hu (by decide) (by decide) hag, if_pos rfl]
    exact State.issue_busy hu hb w
  · have hbounds : off < 256 ∧ off % 4 = 0 ∧ off ≠ 0x04 := by
      rcases hheld with h | h | h | h | h | h | ⟨i, hi, h⟩ <;> omega
    obtain ⟨ho, ha, hne⟩ := hbounds
    obtain ⟨r, hr, hrb⟩ := RegName.ofOffset_heldWhileBusy hheld
    rw [step_regWrite hl hk hu ho ha hag, if_neg hne, Block.writeAt_of_ofOffset hr,
      Block.writeReg_heldWhileBusy hrb hb]
    rfl

/-- Settles O36: the write is `Block.writeStatus`, which touches no register but `STATUS`. -/
theorem statusWriteOneToClear : Obligations.StatusWriteOneToClear := by
  intro n u w
  rw [Block.writeAt_of_ofOffset (r := .status) rfl]
  refine ⟨(u.writeStatus w).status, rfl, rfl, rfl, rfl,
    and_not_eq_ite_false _ _, and_not_eq_ite_false _ _, and_not_eq_ite_false _ _, rfl⟩

end Sys2Proof.Machine
end

section
/-! Decoding in the arithmetic of a word's fields (30_encoding.md R81 to R87): which check fails first, and which one
word each command has. -/

namespace Sys2Proof

/-! ## Commands by their opcode and index -/

/-- The commands that use `RIDX`, by their opcodes (R82). -/
theorem Instr.usesRidx_iff (i : Instr) :
    i.usesRidx = true ↔ i.opcode.toNat = 3 ∨ i.opcode.toNat = 5 ∨ i.opcode.toNat = 9 := by
  cases i <;> simp [Instr.usesRidx, Instr.opcode]

/-- Well-formedness bounds the index exactly where a command uses one (R84). -/
theorem Instr.wf_iff (n : Nat) (i : Instr) : i.wf n = true ↔ (i.usesRidx = true → i.ridx.toNat < n) := by
  cases i <;> simp [Instr.wf, Instr.usesRidx, Instr.ridx]

/-- The reserved opcodes (R82). -/
theorem opcodeMap_eq_none_iff (op : BitVec 4) (k : RuleIdx) :
    opcodeMap op k = none ↔ op.toNat = 7 ∨ 11 ≤ op.toNat := by
  have key : ∀ op : Fin 16, opcodeMap (BitVec.ofFin op) k = none ↔ op.val = 7 ∨ 11 ≤ op.val := by
    intro op
    fin_cases op <;> simp [opcodeMap]
  exact key op.toFin

/-! ## Words by their fields -/

/-- A word is its opcode, its index and its reserved bits (R81). -/
theorem eq_encode_iff (w : Word) (i : Instr) :
    w = encode i ↔ opField w = i.opcode ∧ ridxField w = i.ridx ∧ reservedField w = 0 := by
  constructor
  · rintro rfl
    exact ⟨opField_encode i, ridxField_encode i, reservedField_encode i⟩
  · rintro ⟨hop, hidx, hres⟩
    refine BitVec.eq_of_toNat_eq ?_
    have hresNat : w.toNat / 256 = 0 := by rw [← reservedField_toNat, hres]; rfl
    rw [encode_toNat, ← hop, ← hidx, opField_toNat, ridxField_toNat]
    omega

/-- The word of a command as the table of R87 writes it: the index shifted above the opcode. -/
theorem encode_eq_or (i : Instr) : encode i = i.opcode.setWidth 32 ||| (i.ridx.setWidth 32 <<< 4) := by
  have hop : (i.opcode.setWidth 32).toNat = i.opcode.toNat :=
    BitVec.toNat_setWidth_of_le (by decide)
  have hidx : (i.ridx.setWidth 32 <<< 4).toNat = i.ridx.toNat <<< 4 := by
    have := i.ridx.isLt
    simp [Nat.shiftLeft_eq]
    omega
  refine BitVec.eq_of_toNat_eq ?_
  rw [encode_toNat, BitVec.toNat_or, hop, hidx, Nat.or_comm,
    ← Nat.shiftLeft_add_eq_or_of_lt i.opcode.isLt, Nat.shiftLeft_eq]
  omega

/-! ## The checks of decoding -/

theorem decode_of_opcodeMap_none {w : Word} (h : opcodeMap (opField w) (ridxField w) = none) (n : Nat) :
    decode n w = .error .illegalOp := by
  simp [decode, h]

/-- The checks of R86 after the opcode's, on the word's fields as numbers. -/
theorem decode_of_opcodeMap_some {w : Word} {ins : Instr}
    (h : opcodeMap (opField w) (ridxField w) = some ins) (n : Nat) :
    decode n w =
      if w.toNat / 256 ≠ 0 then .error .reservedBits
      else if ¬ ins.usesRidx = true ∧ w.toNat / 16 % 16 ≠ 0 then .error .reservedBits
      else if ins.usesRidx = true ∧ n ≤ w.toNat / 16 % 16 then .error .ruleIndex
      else .ok ins := by
  have hwf : (!ins.wf n) = true ↔ ins.usesRidx = true ∧ n ≤ (ridxField w).toNat := by
    rw [Bool.not_eq_true', ← Bool.not_eq_true, Instr.wf_iff, Classical.not_imp, Nat.not_lt]
    exact and_congr_right fun huse => by rw [(opcodeMap_some h).2 huse]
  rw [← ridxField_toNat, ← reservedField_toNat]
  simp [decode, h, hwf, BitVec.toNat_eq]

/-- The word of a well-formed command decodes to it (R87). -/
theorem decode_encode_of_wf {n : Nat} {i : Instr} (hwf : i.wf n = true) : decode n (encode i) = .ok i := by
  have hidx : i.usesRidx = false → i.ridx = 0 := Instr.ridx_unused
  simpa [decode, hwf] using hidx

/-- Decoding answers a command only at that command's one word, and only where it is well formed (R87). -/
theorem decode_eq_ok_iff (n : Nat) (w : Word) (i : Instr) :
    decode n w = .ok i ↔ w = encode i ∧ i.wf n = true := by
  constructor
  · intro hd
    cases hm : opcodeMap (opField w) (ridxField w) with
    | none =>
      rw [decode_of_opcodeMap_none hm] at hd
      cases hd
    | some ins =>
      obtain ⟨hop, hused⟩ := opcodeMap_some hm
      rw [decode_of_opcodeMap_some hm] at hd
      split_ifs at hd with hres hunused hbound
      cases hd
      rw [← ridxField_toNat] at hunused hbound
      rw [← reservedField_toNat] at hres
      have hidx : i.ridx = ridxField w := by
        by_cases huse : i.usesRidx = true
        · exact hused huse
        · have hzero : (ridxField w).toNat = 0 := by simpa [huse] using hunused
          rw [Instr.ridx_unused (Bool.eq_false_of_not_eq_true huse)]
          exact (BitVec.eq_of_toNat_eq hzero).symm
      refine ⟨(eq_encode_iff w i).mpr ⟨hop.symm, hidx.symm, ?_⟩, ?_⟩
      · simpa [BitVec.toNat_eq] using hres
      · rw [Instr.wf_iff, hidx]
        exact fun huse => Nat.lt_of_not_le fun hle => hbound ⟨huse, hle⟩
  · rintro ⟨rfl, hwf⟩
    exact decode_encode_of_wf hwf

/-! ## The statements -/

/-- Settles O2: each clause is `decode_eq_ok_iff` at one command, whose word `encode_eq_or` writes out. -/
theorem canonicalWords : Obligations.CanonicalWords := by
  intro n w
  have hplain : ∀ i : Instr, i.usesRidx = false → (decode n w = .ok i ↔ w = encode i) := by
    intro i hi
    simp [decode_eq_ok_iff, Instr.wf_iff, hi]
  have hindexed : ∀ i : Instr, i.usesRidx = true →
      (decode n w = .ok i ↔ w = i.opcode.setWidth 32 ||| (i.ridx.setWidth 32 <<< 4) ∧ i.ridx.toNat < n) := by
    intro i hi
    simp [decode_eq_ok_iff, Instr.wf_iff, hi, encode_eq_or]
  exact ⟨hplain .nop rfl, hplain .rgb2hsv rfl, hplain .hsv2rgb rfl, fun i => hindexed (.inband i) rfl,
    hplain .pxshift rfl, fun i => hindexed (.pxband i) rfl, hplain .pxmulti rfl, hplain .bufshift rfl,
    fun i => hindexed (.bufband i) rfl, hplain .bufmulti rfl⟩

/-- Settles O3: the opcode map decides the first check, `decode_of_opcodeMap_some` is the chain of the others, and a
word that passes them all is the word of the command decoded. -/
theorem decodeChecksInOrder : Obligations.DecodeChecksInOrder := by
  intro n w op i reserved
  have hnone : opcodeMap (opField w) (ridxField w) = none ↔ op = 7 ∨ 11 ≤ op := by
    rw [opcodeMap_eq_none_iff, opField_toNat]
  cases hm : opcodeMap (opField w) (ridxField w) with
  | none =>
    rw [if_pos (hnone.mp hm)]
    exact ⟨.illegalOp, decode_of_opcodeMap_none hm n, rfl⟩
  | some ins =>
    have hlegal : ¬(op = 7 ∨ 11 ≤ op) := by simp [← hnone, hm]
    have huse : ins.usesRidx = true ↔ op = 3 ∨ op = 5 ∨ op = 9 := by
      rw [Instr.usesRidx_iff, (opcodeMap_some hm).1, opField_toNat]
    have hd := decode_of_opcodeMap_some hm n
    simp only [huse] at hd
    rw [if_neg hlegal]
    split_ifs at hd ⊢ with hres hunused hbound
    · exact ⟨.reservedBits, hd, rfl⟩
    · exact ⟨.reservedBits, hd, rfl⟩
    · exact ⟨.ruleIndex, hd, rfl⟩
    · obtain ⟨hw, -⟩ := (decode_eq_ok_iff n w ins).mp hd
      obtain ⟨hop, hidx, -⟩ := (eq_encode_iff w ins).mp hw
      exact ⟨ins, hd, by rw [← hop, opField_toNat], by rw [← hidx, ridxField_toNat]⟩

end Sys2Proof
end

section
/-! The conversion numerics in quotients and remainders (40_conversion.md R101, R102, R115 to R119): the expansion tables
in both modes, and the channels of a converted HSV triple. -/

namespace Sys2Proof.Machine

/-! ## The expansion tables -/

theorem lut5_round (v : Nat) : lut5 .round v = (255 * v + 15) / 31 := rfl

theorem lut6_round (v : Nat) : lut6 .round v = (255 * v + 31) / 63 := rfl

/-- Replication puts the top two bits below the five, and the two parts share no bit. -/
theorem lut5_replicate {v : Nat} (hv : v < 32) : lut5 .replicate v = 8 * v + v / 4 := by
  have hlow : v >>> 2 < 2 ^ 3 := by rw [Nat.shiftRight_eq_div_pow]; omega
  rw [lut5, ← Nat.shiftLeft_add_eq_or_of_lt hlow, Nat.shiftLeft_eq, Nat.shiftRight_eq_div_pow]
  omega

/-- Replication puts the top two bits below the six, and the two parts share no bit. -/
theorem lut6_replicate {v : Nat} (hv : v < 64) : lut6 .replicate v = 4 * v + v / 16 := by
  have hlow : v >>> 4 < 2 ^ 2 := by rw [Nat.shiftRight_eq_div_pow]; omega
  rw [lut6, ← Nat.shiftLeft_add_eq_or_of_lt hlow, Nat.shiftLeft_eq, Nat.shiftRight_eq_div_pow]
  omega

/-- Settles O44: each table is a quotient, and the largest distance is reached at 20 and 11 under ROUND, at 28 and 48
under REPLICATE. -/
theorem expansionTableLaws : Obligations.ExpansionTableLaws := by
  intro m d5 d6
  cases m with
  | round =>
    refine ⟨fun v hv => ?_, ⟨20, by decide⟩, rfl, rfl, fun v hv => ?_, ⟨11, by decide⟩, rfl, rfl⟩
    · simp only [d5, lut5_round, if_true]
      omega
    · simp only [d6, lut6_round, if_true]
      omega
  | replicate =>
    refine ⟨fun v hv => ?_, ⟨28, by decide⟩, rfl, rfl, fun v hv => ?_, ⟨48, by decide⟩, rfl, rfl⟩
    · have hnext : v + 1 < 32 → lut5 .replicate (v + 1) = 8 * (v + 1) + (v + 1) / 4 := lut5_replicate
      simp only [d5, lut5_replicate hv, reduceCtorEq, if_false]
      omega
    · have hnext : v + 1 < 64 → lut6 .replicate (v + 1) = 4 * (v + 1) + (v + 1) / 16 := lut6_replicate
      simp only [d6, lut6_replicate hv, reduceCtorEq, if_false]
      omega

/-! ## From HSV to a pixel -/

/-- `v` scaled down by `255 - k` parts in 256: the common form of `p`, `q` and `t` (R115). -/
def dimmed (v k : Nat) : Nat := v * (255 - k) / 256

theorem dimmed_lt {v : Nat} (hv : v < 256) (k : Nat) : dimmed v k < 256 := by
  have hle : v * (255 - k) ≤ v * 255 := Nat.mul_le_mul_left v (Nat.sub_le 255 k)
  unfold dimmed
  omega

/-- The sector table (R118), by the region of the hue. -/
theorem sectorRgb_of_region (h s v : Nat) :
    let rem := h % 43 * 6
    let p := dimmed v s
    let q := dimmed v (s * rem / 256)
    let t := dimmed v (s * (255 - rem) / 256)
    (h / 43 = 0 → sectorRgb h s v = ⟨v, t, p⟩) ∧ (h / 43 = 1 → sectorRgb h s v = ⟨q, v, p⟩) ∧
      (h / 43 = 2 → sectorRgb h s v = ⟨p, v, t⟩) ∧ (h / 43 = 3 → sectorRgb h s v = ⟨p, q, v⟩) ∧
      (h / 43 = 4 → sectorRgb h s v = ⟨t, p, v⟩) ∧ (h / 43 = 5 → sectorRgb h s v = ⟨v, p, q⟩) := by
  have hrem : h % 43 = h - 43 * (h / 43) := by omega
  simp only [hrem, dimmed, sectorRgb, Nat.shiftRight_eq_div_pow, Nat.reducePow]
  refine ⟨?_, ?_, ?_, ?_, ?_, ?_⟩ <;> exact fun hregion => by simp only [hregion]

/-- Settles O48: the channels to be packed are the gray of V or an entry of the sector table, each below 256. -/
theorem grayIgnoresHue : Obligations.GrayIgnoresHue := by
  intro h s v x packs region rem p q t
  have hv : v.toNat < 256 := v.isLt
  have hp : p < 256 := dimmed_lt hv _
  have hq : q < 256 := dimmed_lt hv _
  have ht : t < 256 := dimmed_lt hv _
  have hpacks : ∀ {r g b : Nat}, r < 256 → g < 256 → b < 256 → x = pack ⟨r, g, b⟩ → packs r g b := by
    intro r g b hr hg hb hx
    simp only [packs, hx]
    exact pack_channels hr hg hb
  refine ⟨fun hs => hpacks hv hv hv (if_pos hs), fun hs => ?_⟩
  have hh : h.toNat < 256 := h.isLt
  have hsector : ∀ {r g b : Nat}, r < 256 → g < 256 → b < 256 →
      sectorRgb h.toNat s.toNat v.toNat = ⟨r, g, b⟩ → packs r g b :=
    fun hr hg hb hrgb => hpacks hr hg hb ((if_neg hs).trans (congrArg pack hrgb))
  obtain ⟨h0, h1, h2, h3, h4, h5⟩ := sectorRgb_of_region h.toNat s.toNat v.toNat
  exact ⟨by omega, by omega, hsector hv ht hp ∘ h0, hsector hq hv hp ∘ h1, hsector hp hv ht ∘ h2,
    hsector hp hq hv ∘ h3, hsector ht hp hv ∘ h4, hsector hv hp hq ∘ h5⟩

end Sys2Proof.Machine
end

section
/-! The hue-band predicate as one comparison (41_predicate.md R130, R131): the circular distance of two hues, its laws,
and the laws of the predicate that follow. -/

namespace Sys2Proof.Machine

/-! ## The circular distance -/

/-- The distance of two hues on the circle of 256: the shorter way round (R131). -/
def circDist (h t : Byte) : Nat :=
  min ((h.toNat : Int) - t.toNat).natAbs (256 - ((h.toNat : Int) - t.toNat).natAbs)

/-- The predicate is the circular distance against the radius (R130). -/
theorem inBand_iff (h t r : Byte) : inBand h t r = true ↔ circDist h t ≤ r.toNat := by
  simp [inBand, circDist]

theorem inBand_eq_false_iff (h t r : Byte) : inBand h t r = false ↔ r.toNat < circDist h t := by
  rw [← Bool.not_eq_true, inBand_iff, Nat.not_le]

theorem circDist_le (h t : Byte) : circDist h t ≤ 128 := by
  unfold circDist
  omega

theorem circDist_comm (h t : Byte) : circDist h t = circDist t h := by
  unfold circDist
  omega

theorem circDist_eq_zero_iff (h t : Byte) : circDist h t = 0 ↔ h = t := by
  have hh : h.toNat < 256 := h.isLt
  have ht : t.toNat < 256 := t.isLt
  rw [BitVec.toNat_eq, circDist]
  omega

/-- The one hue at the largest distance is the antipode (R131). -/
theorem circDist_eq_128_iff (h t : Byte) : circDist h t = 128 ↔ h = t + 128 := by
  have hh : h.toNat < 256 := h.isLt
  have ht : t.toNat < 256 := t.isLt
  have hanti : (t + 128).toNat = (t.toNat + 128) % 256 := BitVec.toNat_add t 128
  rw [BitVec.toNat_eq, hanti, circDist]
  omega

/-- Reversing the direction of the circle keeps every distance; hue 0 is its own mirror image (R131). -/
theorem circDist_neg_neg (h t : Byte) : circDist (-h) (-t) = circDist h t := by
  have hh : h.toNat < 256 := h.isLt
  have ht : t.toNat < 256 := t.isLt
  have hneg : ∀ b : Byte, (-b).toNat = (256 - b.toNat) % 256 := BitVec.toNat_neg
  simp only [circDist, hneg]
  omega

/-! ## The laws of the predicate -/

/-- The predicate depends on hue and target only through their circular distance. -/
theorem inBand_congr {h t h' t' : Byte} (hdist : circDist h t = circDist h' t') (r : Byte) :
    inBand h t r = inBand h' t' r := by
  rw [Bool.eq_iff_iff, inBand_iff, inBand_iff, hdist]

theorem inBand_radius_zero_iff (h t : Byte) : inBand h t 0 = true ↔ h = t := by
  rw [inBand_iff, ← circDist_eq_zero_iff]
  exact Nat.le_zero

theorem inBand_of_radius_ge {r : Byte} (hr : 128 ≤ r.toNat) (h t : Byte) : inBand h t r = true :=
  (inBand_iff h t r).mpr ((circDist_le h t).trans hr)

theorem inBand_radius_127_eq_false_iff (h t : Byte) : inBand h t 127 = false ↔ h = t + 128 := by
  rw [inBand_eq_false_iff, ← circDist_eq_128_iff]
  exact (circDist_le h t).ge_iff_eq

theorem inBand_self (t r : Byte) : inBand t t r = true := by
  rw [inBand_iff, (circDist_eq_zero_iff t t).mpr rfl]
  exact Nat.zero_le _

theorem inBand_mono {h t r r' : Byte} (hr : r.toNat ≤ r'.toNat) (hin : inBand h t r = true) :
    inBand h t r' = true :=
  (inBand_iff h t r').mpr (((inBand_iff h t r).mp hin).trans hr)

/-- Settles O49: each law is one of `circDist`, which `inBand` compares with the radius. -/
theorem inBandLaws : Obligations.InBandLaws := fun h t r =>
  ⟨inBand_radius_zero_iff h t, circDist_le h t, fun hr => inBand_of_radius_ge hr h t,
    inBand_radius_127_eq_false_iff h t, inBand_self t r, inBand_congr (circDist_comm h t) r,
    inBand_congr (circDist_neg_neg h t) r, fun _ => inBand_mono⟩

end Sys2Proof.Machine
end

section
/-! Achromatic pixels and the two ends of V (40_conversion.md R102, R108, R116, R119, R121): packing undoes expansion, a
pixel with `S = 0` is the gray of its V, and `V = 0` is black. -/

namespace Sys2Proof.Machine

/-! ## A pixel and its expanded channels -/

theorem toNat_eq_channels (p : Pixel) :
    p.toNat = (red5 p).toNat * 2048 + (green6 p).toNat * 32 + (blue5 p).toNat := by
  have hp : p.toNat < 65536 := p.isLt
  simp only [red5, green6, blue5, BitVec.extractLsb'_toNat, Nat.shiftRight_eq_div_pow]
  omega

theorem lut5_top (m : LutMode) (c : BitVec 5) : lut5 m c.toNat / 8 = c.toNat ∧ lut5 m c.toNat < 256 := by
  obtain ⟨hlaws, -⟩ := expansionTableLaws m
  obtain ⟨-, htop, hlt, -⟩ := hlaws c.toNat c.isLt
  exact ⟨htop, hlt⟩

theorem lut6_top (m : LutMode) (c : BitVec 6) : lut6 m c.toNat / 4 = c.toNat ∧ lut6 m c.toNat < 256 := by
  obtain ⟨-, -, -, -, hlaws, -⟩ := expansionTableLaws m
  obtain ⟨-, htop, hlt, -⟩ := hlaws c.toNat c.isLt
  exact ⟨htop, hlt⟩

/-- Each table keeps the top bits, which are all that packing takes (R102, R119). -/
theorem pack_expand (m : LutMode) (p : Pixel) : pack (expand m p) = p := by
  obtain ⟨hr, hr256⟩ := lut5_top m (red5 p)
  obtain ⟨hg, hg256⟩ := lut6_top m (green6 p)
  obtain ⟨hb, hb256⟩ := lut5_top m (blue5 p)
  obtain ⟨hred, hgreen, hblue⟩ := pack_channels hr256 hg256 hb256
  apply BitVec.eq_of_toNat_eq
  rw [toNat_eq_channels, toNat_eq_channels p, expand, hred, hgreen, hblue, hr, hg, hb]

theorem expand_mx_lt (m : LutMode) (p : Pixel) : (expand m p).mx < 256 := by
  have hr := (lut5_top m (red5 p)).2
  have hg := (lut6_top m (green6 p)).2
  have hb := (lut5_top m (blue5 p)).2
  simp only [Rgb.mx, expand]
  omega

/-! ## Achromatic pixels -/

/-- Distinct channels have `S ≥ 1`, because `mx ≤ 255` (R108); so with `S = 0` the channels are one value. -/
theorem toHsv_of_s_eq_zero {c : Rgb} (hc : c.mx < 256) (hs : c.toHsv.s = 0) :
    c = ⟨c.mx, c.mx, c.mx⟩ ∧ c.toHsv = ⟨0, 0, BitVec.ofNat 8 c.mx⟩ := by
  by_cases hd : c.mx - c.mn = 0
  · refine ⟨?_, if_pos hd⟩
    obtain ⟨r, g, b⟩ := c
    simp only [Rgb.mx, Rgb.mn] at hd
    simp only [Rgb.mx, Rgb.mk.injEq]
    omega
  · have hge : 1 ≤ (c.mx - c.mn) * 255 / c.mx := (Nat.one_le_div_iff (by omega)).mpr (by omega)
    have hle : (c.mx - c.mn) * 255 / c.mx ≤ 255 :=
      Nat.div_le_of_le_mul (Nat.mul_le_mul_right 255 (Nat.sub_le ..))
    have hsat : c.toHsv.s = BitVec.ofNat 8 ((c.mx - c.mn) * 255 / c.mx) := by simp [Rgb.toHsv, hd]
    have hnat : (c.mx - c.mn) * 255 / c.mx % 256 = 0 := congrArg BitVec.toNat (hsat.symm.trans hs)
    omega

theorem rgb565ToHsv_h_of_achromatic {m : LutMode} {p : Pixel} (hs : (rgb565ToHsv m p).s = 0) :
    (rgb565ToHsv m p).h = 0 :=
  congrArg Hsv.h (toHsv_of_s_eq_zero (expand_mx_lt m p) hs).2

/-- With `S = 0` only V is read: the pixel is the gray of V (R116). -/
theorem hsvToRgb565_of_s_eq_zero {x : Hsv} (hs : x.s = 0) :
    hsvToRgb565 x = hsvToRgb565 { h := 0, s := 0, v := x.v } := (if_pos hs).trans (if_pos rfl).symm

/-- The round trip is exact for achromatic pixels (R121(a)). -/
theorem hsvToRgb565_rgb565ToHsv_of_achromatic {m : LutMode} {p : Pixel} (hs : (rgb565ToHsv m p).s = 0) :
    hsvToRgb565 (rgb565ToHsv m p) = p := by
  have hmx := expand_mx_lt m p
  obtain ⟨hgray, hhsv⟩ := toHsv_of_s_eq_zero hmx hs
  have hv : (rgb565ToHsv m p).v.toNat = (expand m p).mx := by
    rw [rgb565ToHsv, hhsv]
    exact (BitVec.toNat_ofNat ..).trans (Nat.mod_eq_of_lt hmx)
  rw [hsvToRgb565, if_pos hs, hv, ← hgray, pack_expand]

/-! ## Black -/

theorem sectorRgb_of_v_eq_zero (h s : Nat) : sectorRgb h s 0 = ⟨0, 0, 0⟩ := by
  simp only [sectorRgb, Nat.zero_mul, Nat.zero_shiftRight]
  split <;> rfl

/-- `V = 0` is black, whatever hue and saturation are. -/
theorem hsvToRgb565_of_v_eq_zero {x : Hsv} (hv : x.v = 0) : hsvToRgb565 x = 0 := by
  unfold hsvToRgb565
  rw [hv, show (0 : Byte).toNat = 0 from rfl, sectorRgb_of_v_eq_zero]
  exact ite_self 0

end Sys2Proof.Machine
end

section
/-! The adjustment functions (42_pixel_adjust.md R141 to R149): what a shift does to each component of a triple, what
re-encoding does to achromatic pixels, and which rule of a list is applied. -/

namespace Sys2Proof.Machine

/-! ## The shift -/

@[simp] theorem shiftHsv_h (x : Hsv) (hs : Byte) (ss : Int) : (shiftHsv x hs ss).h = x.h + hs :=
  (BitVec.add_def ..).symm

@[simp] theorem shiftHsv_v (x : Hsv) (hs : Byte) (ss : Int) : (shiftHsv x hs ss).v = x.v := rfl

theorem clamp_eq_max_min {lo hi : Int} (hle : lo ≤ hi) (x : Int) : clamp x lo hi = max lo (min hi x) := by
  unfold clamp
  omega

/-- The clamped sum fits in 8 bits, so narrowing loses nothing (R143). -/
theorem shiftHsv_s_toNat (x : Hsv) (hs : Byte) (ss : Int) :
    ((shiftHsv x hs ss).s.toNat : Int) = max 0 (min 255 ((x.s.toNat : Int) + ss)) := by
  rw [shiftHsv, clamp_eq_max_min (by decide), BitVec.toNat_ofInt]
  omega

theorem shiftHsv_s_eq_zero {x : Hsv} {ss : Int} (hss : (x.s.toNat : Int) + ss ≤ 0) (hs : Byte) :
    (shiftHsv x hs ss).s = 0 := by
  have hsat := shiftHsv_s_toNat x hs ss
  have hnat : (shiftHsv x hs ss).s.toNat = 0 := by omega
  exact BitVec.eq_of_toNat_eq hnat

theorem shiftHsv_s_eq_255 {x : Hsv} {ss : Int} (hss : 255 ≤ (x.s.toNat : Int) + ss) (hs : Byte) :
    (shiftHsv x hs ss).s = 255 := by
  have hsat := shiftHsv_s_toNat x hs ss
  have hnat : (shiftHsv x hs ss).s.toNat = 255 := by omega
  exact BitVec.eq_of_toNat_eq hnat

/-- The signed reading of a byte is congruent to the unsigned one (R142). -/
theorem toInt_emod_256 (b : Byte) : b.toInt % 256 = (b.toNat : Int) % 256 := by
  rw [BitVec.toInt_eq_toNat_bmod]
  exact Int.bmod_emod ..

/-- Settles O50: the hue is an 8-bit sum, which both readings of HUE_SHIFT give; the saturation is the clamp on
integers, whose ends a shift of 255 either way reaches from every saturation. -/
theorem shiftLaws : Obligations.ShiftLaws := by
  intro x hs ss y
  have hsat : x.s.toNat < 256 := x.s.isLt
  have hhue : y.h.toNat = (x.h.toNat + hs.toNat) % 256 := by
    rw [shiftHsv_h]
    exact BitVec.toNat_add ..
  have hsigned := toInt_emod_256 hs
  exact ⟨hhue, by omega, shiftHsv_s_toNat x hs ss.toInt, fun hlo => shiftHsv_s_eq_zero (by omega) hs,
    fun hhi => shiftHsv_s_eq_255 (by omega) hs, shiftHsv_v ..⟩

/-! ## Re-encoding -/

/-- R149(c): a saturation brought to 0 leaves the gray of V. -/
theorem reencode_of_sum_nonpos {m : LutMode} {p : Pixel} {ss : Int}
    (hss : ((rgb565ToHsv m p).s.toNat : Int) + ss ≤ 0) (hs : Byte) :
    reencode m p hs ss = hsvToRgb565 { h := 0, s := 0, v := (rgb565ToHsv m p).v } :=
  hsvToRgb565_of_s_eq_zero (shiftHsv_s_eq_zero hss hs)

/-- R149(a): the saturation stays 0, and the pixel is already the gray of its value. -/
theorem reencode_of_achromatic_of_nonpos {m : LutMode} {p : Pixel} {ss : Int}
    (hx : (rgb565ToHsv m p).s = 0) (hss : ss ≤ 0) (hs : Byte) : reencode m p hs ss = p := by
  have hsum : ((rgb565ToHsv m p).s.toNat : Int) + ss ≤ 0 := by simpa [hx] using hss
  calc reencode m p hs ss
      = hsvToRgb565 { h := 0, s := 0, v := (rgb565ToHsv m p).v } := reencode_of_sum_nonpos hsum hs
    _ = hsvToRgb565 (rgb565ToHsv m p) := (hsvToRgb565_of_s_eq_zero hx).symm
    _ = p := hsvToRgb565_rgb565ToHsv_of_achromatic hx

/-- R149(b): hue and saturation of an achromatic pixel are 0, so the shifts alone take their place. -/
theorem reencode_of_achromatic_of_pos {m : LutMode} {p : Pixel} {ss : Int}
    (hx : (rgb565ToHsv m p).s = 0) (hss : 0 < ss) (hs : Byte) :
    reencode m p hs ss =
      hsvToRgb565 { h := hs, s := BitVec.ofInt 8 (min ss 255), v := (rgb565ToHsv m p).v } := by
  have hsat : clamp (((0 : Byte).toNat : Int) + ss) 0 255 = min ss 255 := by
    rw [clamp_eq_max_min (by decide), show (0 : Byte).toNat = 0 from rfl]
    omega
  rw [reencode, shiftHsv, hx, rgb565ToHsv_h_of_achromatic hx, hsat]
  simp

/-- Black stays black (R149(b)): no shift changes V. -/
theorem reencode_black (m : LutMode) (hs : Byte) (ss : Int) : reencode m 0 hs ss = 0 := by
  have hv : (rgb565ToHsv m 0).v = 0 := by cases m <;> rfl
  exact hsvToRgb565_of_v_eq_zero ((shiftHsv_v ..).trans hv)

/-- The example of R149(b), which is the same in both modes. -/
theorem reencode_white_sat_100 (m : LutMode) : reencode m 0xFFFF 0 100 = 0xFCD3 := by
  cases m <;> decide

/-! ## The rule that is applied -/

theorem adjustSingle_of_covers {m : LutMode} {p : Pixel} {r : RuleSlot} (hr : r.covers m p = true) :
    adjustSingle m p r = { matched := true, hit := 0, pixel := r.apply m p } := if_pos hr

/-- The head of the list is applied if it covers the pixel, whatever rules follow it (R145). -/
theorem adjustMulti_cons_of_covers {m : LutMode} {p : Pixel} {r : RuleSlot} (hr : r.covers m p = true)
    (rs : List RuleSlot) :
    adjustMulti m p (r :: rs) = { matched := true, hit := 0, pixel := r.apply m p } := by
  rw [adjustMulti, firstMatch, if_pos hr]
  rfl

/-- R149(e), with the index too, which is 0 on both sides. -/
theorem adjustMulti_singleton (m : LutMode) (p : Pixel) (r : RuleSlot) :
    adjustMulti m p [r] = adjustSingle m p r := by
  by_cases hr : r.covers m p = true
  · rw [adjustMulti_cons_of_covers hr, adjustSingle_of_covers hr]
  · rw [adjustMulti, adjustSingle, firstMatch, if_neg hr, if_neg hr, firstMatch]

/-- R149(f): a rule with such a radius covers every pixel, so it is the global shift. -/
theorem adjustSingle_of_radius_ge {r : RuleSlot} (hr : 128 ≤ r.radius.toNat) (m : LutMode) (p : Pixel) :
    adjustSingle m p r = adjustGlobal m p r.hueShift r.satShift.toInt :=
  adjustSingle_of_covers (inBand_of_radius_ge hr ..)

/-- Settles O51: (a) to (c) by what re-encoding does to a saturation of 0, (d) to (f) by which rule is applied. -/
theorem adjustLaws : Obligations.AdjustLaws := by
  intro m p hs ss r r' rs x
  refine ⟨fun hx hss => reencode_of_achromatic_of_nonpos hx hss hs,
    fun hx hss => reencode_of_achromatic_of_pos hx hss hs, reencode_white_sat_100 m, reencode_black m hs ss,
    fun hss => reencode_of_sum_nonpos hss hs, fun hr hr' => ⟨?first, ?swapped⟩, ?matched, ?pixel,
    fun hr => ?global⟩
  case first => rw [adjustMulti_cons_of_covers hr, RuleSlot.apply]
  case swapped => rw [adjustMulti_cons_of_covers hr', RuleSlot.apply]
  case matched => rw [adjustMulti_singleton]
  case pixel => rw [adjustMulti_singleton]
  case global => rw [adjustSingle_of_radius_ge hr]

end Sys2Proof.Machine
end

section
/-! The buffer commands at issue (43_buffer.md R173): a command with nothing to do completes in its own transition. -/

namespace Sys2Proof.Machine

/-- On any of the grounds of R206 the no-op guards, which come first, answer. -/
theorem Block.bufferCheck_eq_noop {u : Block} {i : Instr}
    (hnoop : u.bufBase = 0 ∨ u.bufLen = 0 ∨ (i = .bufmulti ∧ u.ruleCount = 0)) (c : Config) :
    u.bufferCheck c i = .noop := by
  obtain ⟨hanswer, -⟩ := u.bufferCheck_answers c i
  exact hanswer hnoop

/-- Settles O20: the command reaches its own checks, which answer `.noop`, and `Block.noopBuffer` is the block
written out. -/
theorem bufferNoop : Obligations.BufferNoop := by
  intro s u i ⟨hu, hbusy⟩ hop hwf hcount hnoop
  calc exec i s
      = .next (s.setUnit (u.noopBuffer i)) := by
        rw [exec_buffer hu hbusy hop hwf hcount, Block.bufferCheck_eq_noop hnoop]
    _ = _ := rfl

end Sys2Proof.Machine
end

section
/-! The first command after reset (70_reset_and_hazards.md R233): every register a command reads is 0, so the
outputs stay black, the zero rule slot matches, and a buffer command has nothing to do. -/

namespace Sys2Proof.Machine

/-! ## Issue of a single-pixel command -/

/-- A single-pixel command that passes the checks runs its own rule, with `CMD` written (42_pixel_adjust.md R140). -/
theorem State.runSingle_idle {s : State} {u : Block} {i : Instr} (hidle : s.Idle u)
    (hwf : i.wf s.cfg.maxRules = true) (hcount : usesRuleCount i = true → u.ruleCount.toNat ≤ s.cfg.maxRules)
    (body : Block → Block) :
    s.runSingle i body = .next (s.setUnit (body { u with cmd := encode i })) :=
  State.issueTo_accept _ hidle.1 hidle.2 (Block.issueError_none hwf hcount)

/-! ## What commands find in the reset registers -/

theorem rgb565ToHsv_black (m : LutMode) : rgb565ToHsv m 0 = Hsv.zero := by
  cases m <;> rfl

theorem hsvToRgb565_zero : hsvToRgb565 Hsv.zero = 0 := hsvToRgb565_of_v_eq_zero rfl

/-- A slot of zeros covers black: target and hue are both 0 (41_predicate.md R131(d)). -/
theorem RuleSlot.zero_covers_black (m : LutMode) : RuleSlot.zero.covers m 0 = true := by
  rw [RuleSlot.covers, rgb565ToHsv_black]
  exact inBand_self 0 0

theorem adjustSingle_zero_black (m : LutMode) :
    adjustSingle m 0 RuleSlot.zero = { matched := true, hit := 0, pixel := 0 } := by
  rw [adjustSingle_of_covers (RuleSlot.zero_covers_black m), RuleSlot.apply, reencode_black]

/-- Every rule slot of a reset unit is 0 (R230(a)), and so is one beyond the table; `CMD` holds no part of them. -/
theorem Block.ruleAt_reset (n : Nat) (w : Word) (k : Nat) :
    Block.ruleAt { Block.reset n with cmd := w } k = RuleSlot.zero := by
  simp only [Block.ruleAt, Block.reset, List.getElem?_replicate]
  split <;> rfl

/-! ## The unit after its first command -/

/-- Whether a command matches on the reset registers: `PXSHIFT` always does, and the zero slot covers black. -/
def matchesAfterReset : Instr → Bool
  | .inband _ | .pxshift | .pxband _ => true
  | _ => false

/-- A reset unit after the command `i`: the outputs keep the value 0 that they have, so only `CMD` and `STATUS` can
change. -/
def Block.firstCommand (n : Nat) (i : Instr) : Block :=
  Block.finish { Block.reset n with cmd := encode i } (matchesAfterReset i) (if matchesAfterReset i then i.ridx else 0)

/-- A single-pixel command that leaves both outputs 0 and matches as `matchesAfterReset` says. -/
theorem runSingle_of_reset {s : State} (hidle : s.Idle (Block.reset s.cfg.maxRules)) {i : Instr}
    (hwf : i.wf s.cfg.maxRules = true) {body : Block → Block} {x : Hsv} {q : Pixel} {m : Bool} {k : BitVec 4}
    (hbody : body { Block.reset s.cfg.maxRules with cmd := encode i } =
      Block.finish { Block.reset s.cfg.maxRules with cmd := encode i, hsvOut := x, pixOut := q } m k)
    (hx : x = Hsv.zero) (hq : q = 0) (hm : m = matchesAfterReset i)
    (hk : k = if matchesAfterReset i then i.ridx else 0) :
    s.runSingle i body = .next (s.setUnit (Block.firstCommand s.cfg.maxRules i)) := by
  rw [State.runSingle_idle hidle hwf fun _ => Nat.zero_le _, hbody, hx, hq, hm, hk]
  rfl

/-- Every well-formed command is accepted after reset and completes at once (R233). -/
theorem exec_of_reset {s : State} (hidle : s.Idle (Block.reset s.cfg.maxRules)) {i : Instr}
    (hwf : i.wf s.cfg.maxRules = true) :
    exec i s = .next (s.setUnit (Block.firstCommand s.cfg.maxRules i)) := by
  have hbuffer := fun hop => bufferNoop s _ i hidle hop hwf (fun _ => Nat.zero_le _) (.inl rfl)
  cases i with
  | nop =>
    unfold exec execNop
    exact runSingle_of_reset hidle hwf rfl rfl rfl rfl rfl
  | rgb2hsv =>
    unfold exec execRgb2hsv
    exact runSingle_of_reset hidle hwf rfl (rgb565ToHsv_black _) rfl rfl rfl
  | hsv2rgb =>
    unfold exec execHsv2rgb
    exact runSingle_of_reset hidle hwf rfl rfl hsvToRgb565_zero rfl rfl
  | inband k =>
    unfold exec execInband
    have hin : inBand 0 RuleSlot.zero.target RuleSlot.zero.radius = true := inBand_self 0 0
    rw [← Block.ruleAt_reset s.cfg.maxRules (encode (.inband k)) k.toNat] at hin
    exact runSingle_of_reset hidle hwf rfl rfl rfl hin (if_congr (iff_of_true hin rfl) rfl rfl)
  | pxshift =>
    unfold exec execPxshift
    exact runSingle_of_reset hidle hwf rfl (rgb565ToHsv_black _) (reencode_black ..) rfl rfl
  | pxband k =>
    unfold exec execPxband
    have hadj := adjustSingle_zero_black s.cfg.lutMode
    rw [← Block.ruleAt_reset s.cfg.maxRules (encode (.pxband k)) k.toNat] at hadj
    exact runSingle_of_reset hidle hwf rfl (rgb565ToHsv_black _) (congrArg Adjusted.pixel hadj)
      (congrArg Adjusted.matched hadj) (congrArg (fun r => if r.matched then k else 0) hadj)
  | pxmulti =>
    unfold exec execPxmulti
    exact runSingle_of_reset hidle hwf rfl (rgb565ToHsv_black _) rfl rfl rfl
  | bufshift => exact hbuffer (by decide)
  | bufband k => exact hbuffer (show 8 ≤ (9 : BitVec 4).toNat by decide)
  | bufmulti => exact hbuffer (by decide)

/-- The opcodes of the buffer commands are those from 8 on (R82); at issue they match nothing. -/
theorem matchesAfterReset_of_opcode_ge {i : Instr} (hop : 8 ≤ i.opcode.toNat) : matchesAfterReset i = false := by
  cases i with
  | bufshift | bufband | bufmulti => rfl
  | _ => simp [Instr.opcode] at hop

/-- A first command that does not match changes no register but `CMD`, and sets DONE. -/
theorem Block.firstCommand_of_not_matches {i : Instr} (hm : matchesAfterReset i = false) (n : Nat) :
    Block.firstCommand n i =
      { Block.reset n with cmd := encode i, status := { Status.reset with done := true } } := by
  rw [Block.firstCommand, hm]
  rfl

/-- Settles O39: `exec_of_reset` gives the unit after each command, and its fields are those of `Block.firstCommand`. -/
theorem firstCommandsAfterReset : Obligations.FirstCommandsAfterReset := by
  rintro s _ hidle rfl hrules
  have hexec : ∀ {i : Instr}, i.wf s.cfg.maxRules = true →
      exec i s = .next (s.setUnit (Block.firstCommand s.cfg.maxRules i)) := exec_of_reset hidle
  have hzero : ∀ i : Instr, i.ridx = 0 → i.wf s.cfg.maxRules = true := fun i hi =>
    (Instr.wf_iff _ i).mpr fun _ => by rw [hi]; exact hrules
  refine ⟨fun i hwf => ⟨_, hexec hwf, rfl, rfl, rfl, rfl, fun hop =>
    Block.firstCommand_of_not_matches (matchesAfterReset_of_opcode_ge hop) _⟩, ?_⟩
  exact ⟨_, _, _, _, _, _, _, hexec (hzero .nop rfl), rfl, hexec (hzero .rgb2hsv rfl), rfl,
    hexec (hzero .hsv2rgb rfl), rfl, hexec (hzero .pxshift rfl), rfl, rfl, hexec (hzero (.inband 0) rfl), rfl, rfl,
    hexec (hzero (.pxband 0) rfl), rfl, rfl, rfl, hexec (hzero .pxmulti rfl), rfl⟩

end Sys2Proof.Machine
end

section
/-! Decoding undoes encoding (30_encoding.md R86, R87). -/

namespace Sys2Proof

/-- Settles O1: `decode_encode_of_wf` is the statement, for one number of slots and one command. -/
theorem decodeEncodeRoundTrip : Obligations.DecodeEncodeRoundTrip := fun _ _ => decode_encode_of_wf

/-- Settles O4: each word is the `encode` of its command, which the 8 slots make well formed. -/
theorem writtenWordsDecode : Obligations.WrittenWordsDecode :=
  ⟨decode_encode_of_wf (i := .nop) rfl, decode_encode_of_wf (i := .hsv2rgb) rfl,
    decode_encode_of_wf (i := .pxband 2) rfl, decode_encode_of_wf (i := .bufband 0) rfl,
    decode_encode_of_wf (i := .bufmulti) rfl⟩

end Sys2Proof
end

section
/-! One engine step (43_buffer.md R174, R175) as an update of unit and memory: what it reads, what it writes, and that
a unit that meets the invariant is never stuck. -/

namespace Sys2Proof.Machine

/-! ## The update -/

/-- The pixel that the engine of `u` reads next. -/
def Block.nextPixel (u : Block) (c : Config) (m : Memory) : Pixel :=
  Memory.readPixel c.byteOrder m (u.ea u.progress.toNat)

/-- Whether the engine of `u` writes the pixel that it reads next. -/
def Block.nextMatched (u : Block) (c : Config) (m : Memory) : Bool :=
  u.pixelMatched c.lutMode (u.nextPixel c m)

/-- Memory after the engine of `u` has processed its next pixel. -/
def Block.memAfter (u : Block) (c : Config) (m : Memory) : Memory :=
  if u.nextMatched c m then
    Memory.writePixel c.byteOrder m (u.ea u.progress.toNat) (u.pixelAfter c.lutMode (u.nextPixel c m))
  else m

/-- The state after the engine of `u`, which is unit `k`, has processed its next pixel. -/
def State.afterPixel (s : State) (k : Nat) (u : Block) : State :=
  { s with units := s.units.set k (u.afterPixel (u.nextMatched s.cfg s.mem)), mem := u.memAfter s.cfg s.mem }

theorem State.afterPixel_eq {s : State} {u : Block} {r : Adjusted}
    (hp : u.pixfn s.cfg.lutMode (u.nextPixel s.cfg s.mem) = some r) (k : Nat) :
    s.afterPixel k u =
      { s with
          units := s.units.set k (u.afterPixel r.matched),
          mem := if r.matched then
            Memory.writePixel s.cfg.byteOrder s.mem (u.ea u.progress.toNat) r.pixel else s.mem } := by
  simp only [State.afterPixel, Block.memAfter, Block.nextMatched, Block.pixelMatched, Block.pixelAfter, hp]

/-- An engine step that answers is idle where BUSY = 0 and else `State.afterPixel`. -/
theorem State.engineStep_afterPixel {s t : State} {k : Nat} {u : Block} (hu : s.units[k]? = some u)
    (h : s.engineStep k = .next t) :
    u.status.busy = false ∧ t = s ∨ u.status.busy = true ∧ t = s.afterPixel k u := by
  obtain ⟨u', hu', h⟩ := State.engineStep_cases h
  obtain rfl : u = u' := Option.some.inj (hu.symm.trans hu')
  obtain h | ⟨hb, -, r, hp, rfl⟩ := h
  · exact .inl h
  · exact .inr ⟨hb, (State.afterPixel_eq hp k).symm⟩

theorem State.engineStep_of_pixfn {s : State} {k : Nat} {u : Block} {r : Adjusted} (hu : s.units[k]? = some u)
    (hb : u.status.busy = true) (hready : u.engineReady s.cfg = true)
    (hp : u.pixfn s.cfg.lutMode (u.nextPixel s.cfg s.mem) = some r) :
    s.engineStep k = .next (s.afterPixel k u) := by
  rw [State.afterPixel_eq hp]
  exact State.engineStep_next hu hb hready hp

/-- A unit that runs as the invariant says makes its step (60_exceptions.md R207, R209). -/
theorem State.engineStep_running {s : State} {k : Nat} {u : Block} (hu : s.units[k]? = some u)
    (hb : u.status.busy = true) (hrun : u.RunInv s.cfg) : s.engineStep k = .next (s.afterPixel k u) :=
  State.engineStep_of_pixfn hu hb (Block.engineReady_running hrun) (Block.pixfn_running hrun ..)

theorem State.engineStep_idle {s : State} {k : Nat} {u : Block} (hu : s.units[k]? = some u)
    (hb : u.status.busy = false) : s.engineStep k = .next s := by
  simp [State.engineStep, hu, hb]

/-! ## Memory after a pixel -/

theorem Block.memAfter_of_unmatched {u : Block} {c : Config} {m : Memory} (h : u.nextMatched c m = false) :
    u.memAfter c m = m := by
  simp [Block.memAfter, h]

theorem Block.byte_memAfter_other (u : Block) (c : Config) (m : Memory) {b : Nat}
    (h : b ≠ u.ea u.progress.toNat) (h' : b ≠ u.ea u.progress.toNat + 1) :
    Memory.byte (u.memAfter c m) b = Memory.byte m b := by
  unfold Block.memAfter
  split
  · exact Memory.byte_writePixel_other _ _ _ h h'
  · rfl

/-- Matched or not, the pixel holds its final value afterwards (R175). -/
theorem Block.readPixel_memAfter_same (u : Block) (c : Config) (m : Memory) :
    Memory.readPixel c.byteOrder (u.memAfter c m) (u.ea u.progress.toNat) =
      u.pixelAfter c.lutMode (u.nextPixel c m) := by
  cases hm : u.nextMatched c m with
  | true => rw [Block.memAfter, hm, if_pos rfl, Memory.readPixel_writePixel_same]
  | false => rw [Block.memAfter_of_unmatched hm, Block.pixelAfter_unmatched hm, Block.nextPixel]

theorem Block.readPixel_memAfter_other (u : Block) (c : Config) (m : Memory) {a : Nat}
    (h : a + 1 < u.ea u.progress.toNat ∨ u.ea u.progress.toNat + 1 < a) :
    Memory.readPixel c.byteOrder (u.memAfter c m) a = Memory.readPixel c.byteOrder m a := by
  have hother {b : Nat} := u.byte_memAfter_other c m (b := b)
  obtain h | h := h
  · have ha := Nat.lt_of_succ_lt h
    exact Memory.readPixel_congr (hother ha.ne (Nat.lt_succ_of_lt ha).ne) (hother h.ne (Nat.succ_lt_succ ha).ne)
  · have ha := Nat.lt_of_succ_lt h
    exact Memory.readPixel_congr (hother ha.ne' h.ne') (hother (Nat.lt_succ_of_lt ha).ne' (Nat.succ_lt_succ ha).ne')

theorem Block.pixel_in_buffer (u : Block) {j : Nat} (hj : j < u.bufLen.toNat) :
    u.inBuffer (u.ea j) ∧ u.inBuffer (u.ea j + 1) := by
  have hlt : u.ea j + 1 < u.bufEnd := (Nat.lt_succ_self _).trans_le (Nat.add_le_add_left (Nat.mul_le_mul_left 2 hj) _)
  have hle : u.bufBase.toNat ≤ u.ea j := Nat.le_add_right ..
  exact ⟨⟨hle, Nat.lt_of_succ_lt hlt⟩, ⟨Nat.le_succ_of_le hle, hlt⟩⟩

theorem Block.memAfter_wf {c : Config} {u : Block} {m : Memory} (hrun : u.RunInv c) (hm : Memory.wf m) :
    Memory.wf (u.memAfter c m) := by
  obtain ⟨-, -, -, -, hend, -, hnext, -⟩ := hrun
  unfold Block.memAfter
  split
  · exact Memory.writePixel_wf _ _ ((u.pixel_in_buffer hnext).2.2.trans_le hend) hm
  · exact hm

/-- A byte outside the buffer of a running unit keeps its value (20_memory.md R66). -/
theorem Block.byte_memAfter_outside {c : Config} {u : Block} (hrun : u.RunInv c) (m : Memory) {b : Nat}
    (hb : ¬ u.inBuffer b) : Memory.byte (u.memAfter c m) b = Memory.byte m b := by
  obtain ⟨-, -, -, -, -, -, hnext, -⟩ := hrun
  obtain ⟨hlow, hhigh⟩ := u.pixel_in_buffer hnext
  exact u.byte_memAfter_other c m (fun h => hb (h ▸ hlow)) (fun h => hb (h ▸ hhigh))

/-- A range that shares no byte with the buffer of a running unit keeps its bytes. -/
theorem Block.byte_memAfter_of_disjoint {c : Config} {u v : Block} (hrun : u.RunInv c)
    (hdis : u.overlaps v = false) (m : Memory) {b : Nat} (hb : v.inBuffer b) :
    Memory.byte (u.memAfter c m) b = Memory.byte m b :=
  Block.byte_memAfter_outside hrun m fun hin =>
    ne_true_of_eq_false hdis ((Block.overlaps_iff u v).mpr ⟨b, hin, hb⟩)

theorem Block.readPixel_memAfter_of_disjoint {c : Config} {u v : Block} (hrun : u.RunInv c)
    (hdis : u.overlaps v = false) (m : Memory) {j : Nat} (hj : j < v.bufLen.toNat) (o : ByteOrder) :
    Memory.readPixel o (u.memAfter c m) (v.ea j) = Memory.readPixel o m (v.ea j) :=
  Memory.readPixel_congr (Block.byte_memAfter_of_disjoint hrun hdis m (v.pixel_in_buffer hj).1)
    (Block.byte_memAfter_of_disjoint hrun hdis m (v.pixel_in_buffer hj).2)

/-! ## What the invariant gives of one unit -/

theorem State.inv_unit {s : State} (hinv : s.Inv) {k : Nat} {u : Block} (hu : s.units[k]? = some u) :
    u.Inv s.cfg := by
  obtain ⟨-, -, -, -, hunits⟩ := hinv
  exact hunits u (List.mem_of_getElem? hu)

theorem State.inv_runInv {s : State} (hinv : s.Inv) {k : Nat} {u : Block} (hu : s.units[k]? = some u)
    (hb : u.status.busy = true) : u.RunInv s.cfg := by
  obtain ⟨-, -, -, -, -, hrun⟩ := State.inv_unit hinv hu
  exact hrun hb

end Sys2Proof.Machine
end

section
/-! What every step keeps (10_state.md, 60_exceptions.md R207, R212, R222): the invariant, the parameters, recorded
faults, disjoint active ranges and, short of its reset, a running command. Each is a case split over `Moved`. -/

namespace Sys2Proof.Machine

/-! ## One step, one unit -/

/-- A step is one transition of the state with some agenda; a reset among them was the first entry. -/
theorem step_moved_agenda {s t : State} (h : step s = .next t) :
    ∃ ag e, Moved { s with agenda := ag } e t ∧ ∀ k, e = some (.reset k) → ∃ rest, s.agenda = .reset k :: rest := by
  obtain ⟨-, ⟨-, hm⟩ | ⟨e, rest, ha, -, hm⟩⟩ := step_moved h
  · exact ⟨s.agenda, none, hm, by simp⟩
  · exact ⟨rest, some e, hm, fun k he => ⟨rest, by rw [ha, Option.some.inj he]⟩⟩

theorem forall_mem_set {α : Type} {l : List α} {P : α → Prop} (h : ∀ x ∈ l, P x) {v : α} (hv : P v) (k : Nat) :
    ∀ x ∈ l.set k v, P x := by
  intro x hx
  obtain hx | rfl := List.mem_or_eq_of_mem_set hx
  · exact h x hx
  · exact hv

/-- `v` is `u` but for its operands and its rules, and has as many rules. -/
def Block.OperandsOnly (u v : Block) : Prop :=
  v.rules.length = u.rules.length ∧
    v = { u with pixIn := v.pixIn, hsvIn := v.hsvIn, bufBase := v.bufBase, bufLen := v.bufLen,
                 gHueShift := v.gHueShift, gSatShift := v.gSatShift, ruleCount := v.ruleCount, rules := v.rules }

theorem Block.writeReg_operandsOnly {u : Block} (hb : u.status.busy = false) {r : RegName}
    (hr : r.isHeldWhileBusy = true) (w : Word) : u.OperandsOnly (u.writeReg r w) := by
  cases r with
  | id | status | cmd | pixOut | hsvOut | matchCount | progress => exact absurd hr Bool.false_ne_true
  | ruleA | ruleB =>
    rw [Block.writeReg, if_neg (ne_true_of_eq_false hb)]
    exact ⟨List.length_set, rfl⟩
  | _ =>
    rw [Block.writeReg, if_neg (ne_true_of_eq_false hb)]
    exact ⟨rfl, rfl⟩

/-- What a host write at an offset other than that of `CMD` leaves of a unit (10_state.md R23, R25, R26, R30). -/
theorem Block.writeAt_cases (u : Block) (n off : Nat) (w : Word) :
    u.writeAt n off w = u ∨ u.writeAt n off w = u.writeStatus w ∨
    u.status.busy = true ∧ u.writeAt n off w = u.ignoreWrite ∨
    u.status.busy = false ∧ u.OperandsOnly (u.writeAt n off w) := by
  cases hr : RegName.ofOffset n off with
  | none => exact .inl (Block.writeAt_of_reserved hr u w)
  | some r =>
    rw [Block.writeAt_of_ofOffset hr]
    cases hheld : r.isHeldWhileBusy with
    | false =>
      cases r with
      | status => exact .inr (.inl rfl)
      | id | cmd | pixOut | hsvOut | matchCount | progress => exact .inl rfl
      | _ => exact absurd hheld.symm Bool.false_ne_true
    | true =>
      cases hb : u.status.busy with
      | true => exact .inr (.inr (.inl ⟨rfl, Block.writeReg_heldWhileBusy hheld hb w⟩))
      | false => exact .inr (.inr (.inr ⟨rfl, Block.writeReg_operandsOnly hb hheld w⟩))

/-- A host access to the registers of a busy unit changes at most its STATUS (10_state.md R26, R30). -/
theorem Accessed.of_busy {s : State} {u v : Block} {o : Bool} (hv : Accessed s u v o)
    (hb : u.status.busy = true) :
    o = s.unitOverlap ∧ (v = u ∨ v = u.ignoreWrite ∨ ∃ w, v = u.writeStatus w) := by
  induction hv with
  | ignored => exact ⟨rfl, .inr (.inl rfl)⟩
  | rejected h => exact absurd (h.symm.trans hb) Bool.false_ne_true
  | issued h => exact absurd (h.symm.trans hb) Bool.false_ne_true
  | written off ho w =>
    refine ⟨rfl, ?_⟩
    obtain h | h | ⟨-, h⟩ | ⟨h, -⟩ := u.writeAt_cases s.cfg.maxRules off w
    · exact .inl h
    · exact .inr (.inr ⟨w, h⟩)
    · exact .inr (.inl h)
    · exact absurd (h.symm.trans hb) Bool.false_ne_true

/-! ## Every update of a unit keeps its invariant -/

theorem Memory.wf_nil : Memory.wf [] :=
  ⟨List.Pairwise.nil, nofun⟩

theorem Block.issueError_eq_none {u : Block} {n : Nat} {i : Instr} (h : u.issueError n i = none) :
    i.wf n = true ∧ (usesRuleCount i = true → u.ruleCount.toNat ≤ n) := by
  unfold Block.issueError at h
  split_ifs at h with hwf hcount
  exact ⟨by simpa using hwf, by simpa using hcount⟩

theorem decode_encode_isSome {n : Nat} {i : Instr} (hwf : i.wf n = true) :
    (decode n (encode i)).toOption.isSome = true := by
  rw [decode_encode_of_wf hwf]
  rfl

theorem cmdErrorCode_bounds (e : CmdError) : e.code ≠ 0 ∧ e.code.toNat ≤ 6 := by
  cases e <;> decide

/-- A write to `STATUS` clears ERR and ERRCODE together (10_state.md R30). -/
theorem Block.writeStatus_statusInv {u : Block} (h : u.status.Inv) (w : Word) : (u.writeStatus w).status.Inv := by
  obtain ⟨herr, hcode, hhit⟩ := h
  refine ⟨?_, ?_, hhit⟩ <;> simp only [Block.writeStatus_err, Block.writeStatus_errCode]
  · cases w.getLsbD 2 <;> simp [herr]
  · cases w.getLsbD 2 <;> simp [hcode]

theorem Block.writeStatus_inv {c : Config} {u : Block} (h : u.Inv c) (w : Word) : (u.writeStatus w).Inv c := by
  obtain ⟨hlen, hcmd, hst, hcount, hbefore, hrun⟩ := h
  refine ⟨hlen, hcmd, Block.writeStatus_statusInv hst w, hcount, hbefore, fun hb => ?_⟩
  obtain ⟨hdone, hrest⟩ := hrun hb
  exact ⟨by simp [hdone], hrest⟩

/-- Of a unit that is not busy the invariant says nothing about a running command. -/
theorem Block.inv_of_idle {c : Config} {v : Block} (hb : v.status.busy = false) (hlen : v.rules.length = c.maxRules)
    (hcmd : (decode c.maxRules v.cmd).toOption.isSome = true) (hst : v.status.Inv)
    (hcount : v.matchCount.toNat ≤ v.progress.toNat) (hbefore : Memory.wf v.before) : v.Inv c :=
  ⟨hlen, hcmd, hst, hcount, hbefore, fun hb' => absurd (hb.symm.trans hb') Bool.false_ne_true⟩

theorem Block.reject_inv {c : Config} {u : Block} (h : u.Inv c) (hb : u.status.busy = false) (e : CmdError) :
    (u.reject e).Inv c := by
  obtain ⟨hlen, hcmd, ⟨-, -, hhit⟩, hcount, hbefore, -⟩ := h
  obtain ⟨hne, hle⟩ := cmdErrorCode_bounds e
  exact Block.inv_of_idle hb hlen hcmd ⟨iff_of_false Bool.true_eq_false.mp hne, hle, hhit⟩ hcount hbefore

theorem Block.writeAt_inv {c : Config} {u : Block} (h : u.Inv c) (off : Nat) (w : Word) :
    (u.writeAt c.maxRules off w).Inv c := by
  obtain e | e | ⟨-, e⟩ | ⟨hb, hrs, e⟩ := u.writeAt_cases c.maxRules off w <;> rw [e]
  · exact h
  · exact Block.writeStatus_inv h w
  · exact h
  · obtain ⟨hlen, hcmd, hst, hcount, hbefore, -⟩ := h
    exact Block.inv_of_idle hb (hrs.trans hlen) hcmd hst hcount hbefore

/-- The checks that a buffer command passes are what the invariant asks of a busy unit (43_buffer.md R172). -/
theorem Block.startBuffer_runInv {s : State} {u : Block} {i : Instr}
    (he : u.issueError s.cfg.maxRules i = none) (ho : 8 ≤ i.opcode.toNat) (hc : u.bufferCheck s.cfg i = .run) :
    (u.startBuffer i s.mem).RunInv s.cfg := by
  obtain ⟨hbase, hlen, hrules, heven, hend, hadmit⟩ := Block.bufferCheck_run hc
  have hpos : (0 : Word).toNat < u.bufLen.toNat := Nat.pos_of_ne_zero fun h => hlen (BitVec.eq_of_toNat_eq h)
  refine ⟨rfl, rfl, hbase, heven, hend, hadmit, hpos, ?_⟩
  rw [Block.startBuffer_cmd, opField_encode]
  cases i with
  | bufshift => exact .inl rfl
  | bufband => exact .inr (.inl rfl)
  | bufmulti => exact .inr (.inr ⟨rfl, hrules rfl, (Block.issueError_eq_none he).2 rfl⟩)
  | _ => exact absurd (Nat.ble_eq_true_of_le ho) Bool.false_ne_true

theorem Issued.inv {s : State} {i : Instr} {u v : Block} {o : Bool} (hi : Issued s i u v o)
    (hm : Memory.wf s.mem) (h : u.Inv s.cfg) : v.Inv s.cfg := by
  have hcmd (he : u.issueError s.cfg.maxRules i = none) := decode_encode_isSome (Block.issueError_eq_none he).1
  induction hi with
  | ignored => exact h
  | rejected hb e => exact Block.reject_inv h hb e
  | single hb he _ x q m k hk =>
    obtain ⟨hlen, -, ⟨herr, hcode, -⟩, hcount, hbefore, -⟩ := h
    exact Block.inv_of_idle hb hlen (hcmd he) ⟨herr, hcode, hk⟩ hcount hbefore
  | noop hb he =>
    obtain ⟨hlen, -, ⟨herr, hcode, -⟩, -, hbefore, -⟩ := h
    exact Block.inv_of_idle hb hlen (hcmd he) ⟨herr, hcode, fun _ => rfl⟩ le_rfl hbefore
  | started hb he ho hc =>
    obtain ⟨hlen, -, ⟨herr, hcode, -⟩, -, -, -⟩ := h
    exact ⟨hlen, hcmd he, ⟨herr, hcode, fun _ => rfl⟩, le_rfl, hm, fun _ => Block.startBuffer_runInv he ho hc⟩

theorem Accessed.inv {s : State} {u v : Block} {o : Bool} (hv : Accessed s u v o) (hm : Memory.wf s.mem)
    (h : u.Inv s.cfg) : v.Inv s.cfg := by
  induction hv with
  | ignored => exact h
  | rejected hb _ e => exact Block.reject_inv h hb e
  | issued _ _ _ _ _ _ hi => exact hi.inv hm h
  | written off _ w => exact Block.writeAt_inv h off w

/-- The last pixel ends the command; after any other one the unit is still busy (43_buffer.md R176). -/
theorem Block.afterPixel_cases (u : Block) (m : Bool) :
    u.progress + 1 ≠ u.bufLen ∧ (u.afterPixel m).status.busy = true ∧
      (u.afterPixel m).status.done = u.status.done ∧ (u.afterPixel m).before = u.before ∨
    u.progress + 1 = u.bufLen ∧ (u.afterPixel m).status.busy = false ∧ (u.afterPixel m).status.done = true ∧
      (u.afterPixel m).before = [] := by
  rw [Block.afterPixel_busy, Block.afterPixel_done, Block.afterPixel_before]
  cases hlast : u.progress + 1 == u.bufLen with
  | false => exact .inl ⟨by simpa using hlast, rfl, Bool.or_false _, rfl⟩
  | true => exact .inr ⟨by simpa using hlast, rfl, Bool.or_true _, rfl⟩

/-- After the last pixel the unit is not busy, so a unit that stays busy has a next pixel (43_buffer.md R176). -/
theorem Block.afterPixel_busy_iff {u : Block} (hnext : u.progress.toNat < u.bufLen.toNat) (m : Bool) :
    (u.afterPixel m).status.busy = true ↔ u.progress.toNat + 1 < u.bufLen.toNat := by
  rw [Block.afterPixel_busy, Bool.not_eq_true', beq_eq_false_iff_ne, Ne, ← BitVec.toNat_inj, succ_toNat hnext]
  exact ⟨Nat.lt_of_le_of_ne hnext, Nat.ne_of_lt⟩

theorem Block.afterPixel_matchCount_le (u : Block) (m : Bool) :
    (u.afterPixel m).matchCount.toNat ≤ u.matchCount.toNat + 1 := by
  cases m with
  | false => exact Nat.le_succ _
  | true => exact (BitVec.toNat_add ..).trans_le (Nat.mod_le ..)

theorem Block.afterPixel_inv {c : Config} {u : Block} (h : u.Inv c) (hb : u.status.busy = true) (m : Bool) :
    (u.afterPixel m).Inv c := by
  obtain ⟨hlen, hcmd, hst, hcount, hbefore, hrun⟩ := h
  obtain ⟨hdone, hmatched, hbase, heven, hend, hadmit, hnext, hop⟩ := hrun hb
  have hsucc : (u.afterPixel m).progress.toNat = u.progress.toNat + 1 := succ_toNat hnext
  have hcount' : (u.afterPixel m).matchCount.toNat ≤ (u.afterPixel m).progress.toNat :=
    (u.afterPixel_matchCount_le m).trans ((Nat.succ_le_succ hcount).trans_eq hsucc.symm)
  obtain ⟨-, -, hdone', hbefore'⟩ | ⟨-, hbusy, -, hbefore'⟩ := u.afterPixel_cases m
  · refine ⟨hlen, hcmd, hst, hcount', hbefore' ▸ hbefore, fun hb' => ?_⟩
    have hmore := hsucc.trans_lt ((Block.afterPixel_busy_iff hnext m).mp hb')
    exact ⟨hdone'.trans hdone, hmatched, hbase, heven, hend, hadmit, hmore, hop⟩
  · exact Block.inv_of_idle hbusy hlen hcmd hst hcount' (hbefore' ▸ Memory.wf_nil)

theorem Block.reset_inv (c : Config) : (Block.reset c.maxRules).Inv c :=
  Block.inv_of_idle rfl List.length_replicate (decode_encode_isSome (i := .nop) rfl) (show Status.reset.Inv by decide)
    le_rfl Memory.wf_nil

/-! ## Every transition keeps the invariant of the machine -/

theorem State.inv_set {s : State} (hinv : s.Inv) {v : Block} (hv : v.Inv s.cfg) (k : Nat) {sel : Nat}
    (hsel : sel < s.units.length) {m : Memory} (hm : Memory.wf m) (o : Bool) :
    State.Inv { s with sel := sel, units := s.units.set k v, mem := m, unitOverlap := o } := by
  obtain ⟨hlegal, hlen, -, -, hunits⟩ := hinv
  exact ⟨hlegal, by simpa using hlen, by simpa using hsel, hm, forall_mem_set hunits hv k⟩

theorem State.afterPixel_inv {s : State} (hinv : s.Inv) {k : Nat} {u : Block} (hu : s.units[k]? = some u)
    (hb : u.status.busy = true) : (s.afterPixel k u).Inv :=
  have hrun := State.inv_runInv hinv hu hb
  have ⟨_, _, hsel, hm, _⟩ := hinv
  State.inv_set hinv (Block.afterPixel_inv (State.inv_unit hinv hu) hb _) k hsel (Block.memAfter_wf hrun hm)
    s.unitOverlap

theorem Moved.inv {s t : State} {e : Option Event} (hmoved : Moved s e t) (hinv : s.Inv) : t.Inv := by
  have ⟨hlegal, hlen, hsel, hm, hunits⟩ := hinv
  induction hmoved with
  | looked sel hs => exact ⟨hlegal, hlen, hs.elim (fun h => h ▸ hsel) id, hm, hunits⟩
  | stored m hm' => exact ⟨hlegal, hlen, hsel, hm' hm, hunits⟩
  | accessed k u v o hu hv =>
    exact State.inv_set hinv (hv.inv hm (State.inv_unit hinv hu)) k (List.getElem?_eq_some_iff.mp hu).1 hm o
  | engine k u r hu hb _ hp =>
    rw [← State.afterPixel_eq hp]
    exact State.afterPixel_inv hinv hu hb
  | reset k => exact State.inv_set hinv (Block.reset_inv s.cfg) k hsel hm s.unitOverlap

/-- Settles O52: the state after reset is a closed term, and the invariant of it is decided. -/
theorem invariantAtReset : Obligations.InvariantAtReset := by
  refine ⟨by decide, rfl, by decide, Memory.wf_nil, ?_⟩
  intro u hu
  obtain rfl : u = Block.reset 8 := List.mem_singleton.mp hu
  exact Block.reset_inv resetConfig

/-- Settles O53: a step is a transition of the state with another agenda, of which the invariant says nothing. -/
theorem stepKeepsInvariant : Obligations.StepKeepsInvariant := by
  intro s t hinv hstep
  obtain ⟨ag, e, hmoved, -⟩ := step_moved_agenda hstep
  exact hmoved.inv (s := { s with agenda := ag }) hinv

/-! ## Parameters and recorded faults -/

/-- UNIT_OVERLAP is sticky under every register access (60_exceptions.md R212). -/
theorem Accessed.unitOverlap_sticky {s : State} {u v : Block} {o : Bool} (hv : Accessed s u v o)
    (ho : s.unitOverlap = true) : o = true := by
  induction hv with
  | issued _ _ _ _ _ _ hi =>
    induction hi with
    | started => simp [ho]
    | _ => exact ho
  | _ => exact ho

theorem Moved.parameters_and_faults {s t : State} {e : Option Event} (hmoved : Moved s e t) :
    t.cfg = s.cfg ∧ t.units.length = s.units.length ∧ (s.hostRace = true → t.hostRace = true) ∧
      (s.unitOverlap = true → t.unitOverlap = true) := by
  induction hmoved with
  | looked => exact ⟨rfl, rfl, id, id⟩
  | stored m _ r hr => exact ⟨rfl, rfl, hr, id⟩
  | accessed k u v o hu hv => exact ⟨rfl, List.length_set, id, hv.unitOverlap_sticky⟩
  | engine | reset => exact ⟨rfl, List.length_set, id, id⟩

/-- Settles O56: only host writes record faults, and none of them clears one. -/
theorem parametersAndFaultsStay : Obligations.ParametersAndFaultsStay := by
  intro s t hstep
  obtain ⟨ag, e, hmoved, -⟩ := step_moved_agenda hstep
  exact hmoved.parameters_and_faults

/-! ## Disjoint active ranges -/

/-- Disjointness by the numbers of the units, in either order. -/
theorem State.disjoint_iff (s : State) :
    s.Disjoint ↔ ∀ (i j : Nat) (u v : Block), i ≠ j → s.units[i]? = some u → s.units[j]? = some v → u.status.busy = true →
      v.status.busy = true → u.overlaps v = false := by
  rw [State.Disjoint, List.pairwise_iff_getElem]
  constructor
  · intro h i j u v hij hi hj hu hv
    obtain ⟨hil, rfl⟩ := List.getElem?_eq_some_iff.mp hi
    obtain ⟨hjl, rfl⟩ := List.getElem?_eq_some_iff.mp hj
    obtain hlt | hgt := Nat.lt_or_gt_of_ne hij
    · exact h i j hil hjl hlt hu hv
    · rw [Block.overlaps_comm]
      exact h j i hjl hil hgt hv hu
  · intro h i j hi hj hlt
    exact h i j _ _ (Nat.ne_of_lt hlt) (List.getElem?_eq_getElem hi) (List.getElem?_eq_getElem hj)

/-- A new unit `k` keeps the ranges disjoint if its own range, if any, is off those of the other units. -/
theorem State.disjoint_set {s t : State} {k : Nat} {v : Block} (hdis : s.Disjoint) (ht : t.units = s.units.set k v)
    (hv : v.status.busy = true → ∀ j w, j ≠ k → s.units[j]? = some w → w.status.busy = true → v.overlaps w = false) :
    t.Disjoint := by
  rw [State.disjoint_iff] at hdis ⊢
  have hget : ∀ {i : Nat} {x : Block}, t.units[i]? = some x → i = k ∧ x = v ∨ i ≠ k ∧ s.units[i]? = some x := by
    intro i x hx
    rw [ht] at hx
    by_cases hk : i = k
    · subst hk
      have hlen : i < (s.units.set i v).length := (List.getElem?_eq_some_iff.mp hx).1
      rw [List.getElem?_set_self (List.length_set ▸ hlen)] at hx
      exact .inl ⟨rfl, (Option.some.inj hx).symm⟩
    · rw [List.getElem?_set_ne (Ne.symm hk)] at hx
      exact .inr ⟨hk, hx⟩
  intro i j x y hij hx hy hbx hby
  obtain ⟨rfl, rfl⟩ | ⟨hik, hx⟩ := hget hx <;> obtain ⟨rfl, rfl⟩ | ⟨hjk, hy⟩ := hget hy
  · exact absurd rfl hij
  · exact hv hbx j y hjk hy hby
  · rw [Block.overlaps_comm]
    exact hv hby i x hik hx hbx
  · exact hdis i j x y hij hx hy hbx hby

/-- A unit that keeps its buffer, and was busy if it is, keeps the ranges disjoint. -/
theorem State.disjoint_set_of_buffer {s t : State} {k : Nat} {u v : Block} (hdis : s.Disjoint)
    (hu : s.units[k]? = some u) (ht : t.units = s.units.set k v)
    (hv : v.status.busy = true → u.status.busy = true ∧ v.bufBase = u.bufBase ∧ v.bufLen = u.bufLen) :
    t.Disjoint := by
  refine State.disjoint_set hdis ht fun hb j w hj hw hbw => ?_
  obtain ⟨hbu, hbase, hlen⟩ := hv hb
  have hsame : v.overlaps w = u.overlaps w := by rw [Block.overlaps, Block.bufEnd, hbase, hlen]; rfl
  rw [hsame]
  exact s.disjoint_iff.mp hdis k j u w (Ne.symm hj) hu hw hbu hbw

/-- A host access leaves a busy unit the range that it had, unless it starts a command, which records UNIT_OVERLAP where
its range is not off every active range. -/
theorem Accessed.off_busy {s : State} {u v : Block} {o : Bool} (hv : Accessed s u v o) (ho : o = false)
    (hb : v.status.busy = true) :
    u.status.busy = true ∧ v.bufBase = u.bufBase ∧ v.bufLen = u.bufLen ∨
      ∀ w ∈ s.units, w.status.busy = true → v.overlaps w = false := by
  obtain ⟨hbu, -, x, rfl⟩ | ⟨-, rfl, i, rfl⟩ := hv.busy_cases hb
  · exact .inl ⟨hbu, rfl, rfl⟩
  · refine .inr fun w hw hbw => Bool.eq_false_of_not_eq_true fun hover => ?_
    have hany : s.overlapsBusy u = true := List.any_eq_true.mpr ⟨w, hw, Bool.and_eq_true_iff.mpr ⟨hbw, hover⟩⟩
    rw [hany, Bool.or_true] at ho
    cases ho

theorem Moved.disjoint {s t : State} {e : Option Event} (hmoved : Moved s e t) (hdis : s.Disjoint)
    (hover : t.unitOverlap = false) : t.Disjoint := by
  induction hmoved with
  | looked | stored => exact hdis
  | engine k u _ hu hb => exact State.disjoint_set_of_buffer hdis hu rfl fun _ => ⟨hb, rfl, rfl⟩
  | reset k => exact State.disjoint_set hdis rfl fun hb => absurd hb Bool.false_ne_true
  | accessed k u v o hu hv =>
    by_cases hb : v.status.busy = true
    · obtain hsame | hoff := hv.off_busy hover hb
      · exact State.disjoint_set_of_buffer hdis hu rfl fun _ => hsame
      · exact State.disjoint_set hdis rfl fun _ j w _ hw => hoff w (List.mem_of_getElem? hw)
    · exact State.disjoint_set hdis rfl fun hb' => absurd hb' hb

/-- Settles O55: a range becomes active only by a command that starts; every other transition keeps the buffers of busy
units. -/
theorem busyRangesStayDisjoint : Obligations.BusyRangesStayDisjoint := by
  intro s t _ hdis hstep hover
  obtain ⟨ag, e, hmoved, -⟩ := step_moved_agenda hstep
  exact hmoved.disjoint hdis hover

/-! ## A running command -/

theorem getElem?_set_cases {α : Type} {l : List α} {k : Nat} {x : α} (hx : l[k]? = some x) (j : Nat) (y : α) :
    j = k ∧ (l.set j y)[k]? = some y ∨ (l.set j y)[k]? = some x := by
  by_cases hj : j = k
  · exact .inl ⟨hj, hj ▸ List.getElem?_set_self (hj ▸ (List.getElem?_eq_some_iff.mp hx).1)⟩
  · exact .inr ((List.getElem?_set_ne hj).trans hx)

/-- What a step makes of unit `k`: the same unit, one whose registers the host has accessed, one that is reset, or one
whose engine has processed a pixel. -/
def State.UnitMoved (s : State) (e : Option Event) (k : Nat) (u v : Block) : Prop :=
  v = u ∨ (∃ o, Accessed s u v o) ∨ e = some (.reset k) ∨
    u.status.busy = true ∧ u.engineReady s.cfg = true ∧ ∃ m, v = u.afterPixel m

theorem Moved.units {s t : State} {e : Option Event} (hmoved : Moved s e t) :
    t.units = s.units ∨ ∃ k u v, s.units[k]? = some u ∧ t.units = s.units.set k v ∧ s.UnitMoved e k u v := by
  induction hmoved with
  | looked | stored => exact .inl rfl
  | accessed k u v o hu hv => exact .inr ⟨k, u, v, hu, rfl, .inr (.inl ⟨o, hv⟩)⟩
  | engine k u r hu hb hready => exact .inr ⟨k, u, _, hu, rfl, .inr (.inr (.inr ⟨hb, hready, _, rfl⟩))⟩
  | reset k he hk => exact .inr ⟨k, _, _, List.getElem?_eq_getElem hk, rfl, .inr (.inr (.inl he))⟩

theorem Moved.unit_cases {s t : State} {e : Option Event} (hmoved : Moved s e t) {k : Nat} {u : Block}
    (hu : s.units[k]? = some u) : ∃ v, t.units[k]? = some v ∧ s.UnitMoved e k u v := by
  obtain h | ⟨j, u', v, hu', h, hv⟩ := hmoved.units <;> rw [h]
  · exact ⟨u, hu, .inl rfl⟩
  · obtain ⟨rfl, h⟩ | h := getElem?_set_cases hu j v
    · obtain rfl : u = u' := Option.some.inj (hu.symm.trans hu')
      exact ⟨v, h, hv⟩
    · exact ⟨u, h, .inl rfl⟩

/-- What a running command keeps of its unit in every step but a reset. -/
structure Block.Keeps (u v : Block) : Prop where
  fields : v = { u with status := v.status, matchCount := v.matchCount, progress := v.progress, before := v.before }
  matched : v.status.matched = u.status.matched
  hit : v.status.hit = u.status.hit
  before : v.status.busy = true → v.before = u.before
  running : v.status.busy = true ∨ v.progress = v.bufLen ∧ v.status.done = true

theorem Accessed.keeps {s : State} {u v : Block} {o : Bool} (hacc : Accessed s u v o) (hb : u.status.busy = true) :
    u.Keeps v := by
  obtain ⟨-, rfl | rfl | ⟨w, rfl⟩⟩ := hacc.of_busy hb <;> exact ⟨rfl, rfl, rfl, fun _ => rfl, .inl hb⟩

/-- The engine stops only after the last pixel. -/
theorem Block.keeps_afterPixel (u : Block) (m : Bool) : u.Keeps (u.afterPixel m) := by
  obtain ⟨-, hbusy, -, hbefore⟩ | ⟨hlast, hbusy, hdone, -⟩ := u.afterPixel_cases m
  · exact ⟨rfl, rfl, rfl, fun _ => hbefore, .inl hbusy⟩
  · exact ⟨rfl, rfl, rfl, fun hb => absurd (hbusy.symm.trans hb) Bool.false_ne_true, .inr ⟨hlast, hdone⟩⟩

/-- Settles O57: what is at the unit after the step is kept by a host access and by an engine step. -/
theorem nothingStopsARunningCommand : Obligations.NothingStopsARunningCommand := by
  intro s t k u hu hb hreset hstep
  obtain ⟨ag, e, hmoved, he⟩ := step_moved_agenda hstep
  obtain ⟨v, hv, h⟩ := hmoved.unit_cases (k := k) hu
  have hkeeps : u.Keeps v := by
    obtain rfl | ⟨o, hacc⟩ | hres | ⟨-, -, m, rfl⟩ := h
    · exact ⟨rfl, rfl, rfl, fun _ => rfl, .inl hb⟩
    · exact hacc.keeps hb
    · obtain ⟨rest, hag⟩ := he k hres
      exact absurd hag (hreset rest)
    · exact u.keeps_afterPixel m
  have hf {α : Type} (f : Block → α) := congrArg f hkeeps.fields
  exact ⟨v, hv, hf Block.cmd, hf Block.pixIn, hf Block.hsvIn, hf Block.pixOut, hf Block.hsvOut, hf Block.bufBase,
    hf Block.bufLen, hf Block.gHueShift, hf Block.gSatShift, hf Block.ruleCount, hf Block.rules, hkeeps.matched,
    hkeeps.hit, hkeeps.before, hkeeps.running⟩

end Sys2Proof.Machine
end

section
/-! The engine step (43_buffer.md R171 to R176): which transitions are engine steps, what one step does and leaves
unchanged, and the order of two steps of units with disjoint buffers. -/

namespace Sys2Proof.Machine

/-! ## Which step is an engine step -/

theorem step_settle {s : State} (hl : s.cfg.legal = true) (ha : s.agenda = []) : step s = s.settle := by
  simp [step, State.advance, hl, ha]

theorem State.settle_of_first_busy {s : State} {k : Nat} {u : Block} (hu : s.units[k]? = some u)
    (hb : u.status.busy = true)
    (hfirst : ∀ (j : Nat) (v : Block), j < k → s.units[j]? = some v → v.status.busy = false) :
    s.settle = s.engineStep k := by
  obtain ⟨hk, rfl⟩ := List.getElem?_eq_some_iff.mp hu
  have hfind : s.units.findIdx? (fun u => u.status.busy) = some k := by
    refine List.findIdx?_eq_some_iff_getElem.mpr ⟨hk, hb, fun j hj => ?_⟩
    simpa using hfirst j _ hj (List.getElem?_eq_getElem (hj.trans hk))
  rw [State.settle, hfind]

theorem State.settle_of_idle {s : State} (hidle : ∀ u ∈ s.units, u.status.busy = false) : s.settle = .next s := by
  have hfind : s.units.findIdx? (fun u => u.status.busy) = none := List.findIdx?_eq_none_iff.mpr hidle
  rw [State.settle, hfind]

/-- Settles O58: with no busy unit `State.settle` answers the state itself. -/
theorem idlePlatformHolds : Obligations.IdlePlatformHolds := fun _ hl ha hidle =>
  (step_settle hl ha).trans (State.settle_of_idle hidle)

/-! ## The unit after a step -/

theorem State.afterPixel_unit {s : State} {k : Nat} {u : Block} (hu : s.units[k]? = some u) :
    (s.afterPixel k u).units[k]? = some (u.afterPixel (u.nextMatched s.cfg s.mem)) :=
  List.getElem?_set_self (List.getElem?_eq_some_iff.mp hu).1

theorem State.afterPixel_other (s : State) {j k : Nat} (u : Block) (h : j ≠ k) :
    (s.afterPixel k u).units[j]? = s.units[j]? :=
  List.getElem?_set_ne (Ne.symm h)

/-- A unit that is still busy after its step keeps the memory its command started on. -/
theorem Block.before_afterPixel (u : Block) (b : Bool) (h : (u.afterPixel b).status.busy = true) :
    (u.afterPixel b).before = u.before := by
  obtain ⟨-, -, -, hbefore⟩ | ⟨-, hidle, -⟩ := u.afterPixel_cases b
  · exact hbefore
  · exact absurd (hidle.symm.trans h) Bool.false_ne_true

/-- The function of the command in `CMD`, by its opcode (R171). -/
theorem Block.pixfn_of_opcode {u : Block} {m : LutMode} {p : Pixel} {r : Adjusted}
    (h : (opField u.cmd).toNat = 8 ∧ r = adjustGlobal m p u.gHueShift u.gSatShift.toInt ∨
      (opField u.cmd).toNat = 9 ∧ r = adjustSingle m p (u.ruleAt (ridxField u.cmd).toNat) ∨
      (opField u.cmd).toNat = 10 ∧ r = adjustMulti m p (u.rules.take u.ruleCount.toNat)) :
    u.pixfn m p = some r := by
  obtain ⟨hop, rfl⟩ | ⟨hop, rfl⟩ | ⟨hop, rfl⟩ := h <;> rw [Block.pixfn, hop] <;> rfl

/-- Settles O23: the step is `State.afterPixel`, whose flag and pixel are those of `r`. -/
theorem engineStepResult : Obligations.EngineStepResult := by
  intro s k u r hu
  refine ⟨fun rest hl ha => step_perform hl ha,
    fun hl ha hb hfirst => (step_settle hl ha).trans (State.settle_of_first_busy hu hb hfirst),
    State.engineStep_idle hu, ?_⟩
  intro hb hnext a hlo hhi p hr
  have hp : u.pixfn s.cfg.lutMode (u.nextPixel s.cfg s.mem) = some r := Block.pixfn_of_opcode hr
  have hmatched : u.nextMatched s.cfg s.mem = r.matched := by rw [Block.nextMatched, Block.pixelMatched, hp]
  have hpixel : u.pixelAfter s.cfg.lutMode p = r.pixel := by rw [Block.pixelAfter]; exact hp ▸ rfl
  have hready : u.engineReady s.cfg = true := by
    rw [Block.engineReady, decide_eq_true hnext, Block.ea, hlo, hhi]; rfl
  refine ⟨_, _, State.engineStep_of_pixfn hu hb hready hp, State.afterPixel_unit hu, succ_toNat hnext, ?count, ?pixel,
    fun hr => Block.memAfter_of_unmatched (hmatched.trans hr), fun b => u.byte_memAfter_other s.cfg s.mem, ?last⟩
  case count => rw [Block.afterPixel_matchCount, hmatched]
  case pixel =>
    refine (u.readPixel_memAfter_same s.cfg s.mem).trans (hpixel.trans ?_)
    split
    · rfl
    · next hno => rw [← hpixel]; exact Block.pixelAfter_unmatched (hmatched.trans (Bool.eq_false_of_not_eq_true hno))
  case last =>
    obtain ⟨hne, hbusy, hdone, -⟩ | ⟨heq, hbusy, hdone, -⟩ := u.afterPixel_cases (u.nextMatched s.cfg s.mem)
    · rw [if_neg (show (u.afterPixel _).progress ≠ u.bufLen from hne)]
      exact ⟨hbusy, hdone⟩
    · rw [if_pos (show (u.afterPixel _).progress = u.bufLen from heq)]
      exact ⟨hbusy, hdone⟩

/-- Settles O24: a step leaves the state as it is or is `State.afterPixel`, whose other fields are those of the state. -/
theorem engineStepFrame : Obligations.EngineStepFrame := by
  intro s t k u hu hstep a p
  obtain ⟨-, rfl⟩ | ⟨-, rfl⟩ := State.engineStep_afterPixel hu hstep
  · exact ⟨fun _ _ _ => rfl, fun _ => rfl, rfl, rfl, rfl, rfl, rfl, rfl, rfl, fun _ _ => rfl, u, hu, rfl, rfl, rfl,
      rfl, rfl, rfl, rfl, rfl, rfl, rfl, rfl, rfl, rfl, rfl, rfl, rfl, fun _ => rfl⟩
  · exact ⟨fun b => u.byte_memAfter_other s.cfg s.mem, Block.memAfter_of_unmatched, rfl, rfl, rfl, rfl, rfl, rfl, rfl,
      fun j => s.afterPixel_other u, _, State.afterPixel_unit hu, rfl, rfl, rfl, rfl, rfl, rfl, rfl, rfl, rfl, rfl, rfl,
      rfl, rfl, rfl, rfl, rfl, u.before_afterPixel _⟩

/-- Settles O25: a unit that is not busy does nothing, and a busy one runs as the invariant says. -/
theorem engineNeverStuck : Obligations.EngineNeverStuck := by
  intro s k hinv hk
  have hu := List.getElem?_eq_getElem hk
  cases hb : s.units[k].status.busy with
  | false => exact ⟨s, State.engineStep_idle hu hb⟩
  | true => exact ⟨_, State.engineStep_running hu hb (State.inv_runInv hinv hu hb)⟩

/-! ## Two engines -/

/-- Pixels written to disjoint places may be written in either order. -/
theorem Memory.writePixel_comm {m : Memory} (h : m.Pairwise fun c d => c.1 < d.1) (o : ByteOrder) {a b : Nat}
    (p q : Pixel) (hab : a + 1 < b) :
    Memory.writePixel o (Memory.writePixel o m a p) b q = Memory.writePixel o (Memory.writePixel o m b q) a p := by
  have hw : ∀ {m : Memory} (a : Nat) (b : Byte), (m.Pairwise fun c d => c.1 < d.1) →
      (Memory.write m a b).Pairwise fun c d => c.1 < d.1 := Memory.write_rising
  have hlt := Nat.lt_of_succ_lt hab
  rw [Memory.writePixel, Memory.writePixel, Memory.writePixel, Memory.writePixel,
    Memory.write_comm (hw _ _ h) _ _ hab.ne, Memory.write_comm h _ _ hlt.ne,
    Memory.write_comm (hw _ _ (hw _ _ h)) _ _ (Nat.succ_lt_succ hlt).ne,
    Memory.write_comm (hw _ _ h) _ _ (Nat.lt_succ_of_lt hlt).ne]

/-- What `v` reads next is not touched by the engine of a unit with a disjoint buffer. -/
theorem Block.nextPixel_memAfter {c : Config} {u v : Block} (hu : u.RunInv c) (hv : v.RunInv c)
    (hdis : u.overlaps v = false) (m : Memory) : v.nextPixel c (u.memAfter c m) = v.nextPixel c m := by
  obtain ⟨-, -, -, -, -, -, hnext, -⟩ := hv
  exact Block.readPixel_memAfter_of_disjoint hu hdis m hnext c.byteOrder

/-- The step of a unit depends on memory by the pixel it reads alone. -/
theorem Block.memAfter_of_nextPixel {u : Block} {c : Config} {m m' : Memory}
    (h : u.nextPixel c m' = u.nextPixel c m) :
    u.memAfter c m' =
      if u.nextMatched c m then
        Memory.writePixel c.byteOrder m' (u.ea u.progress.toNat) (u.pixelAfter c.lutMode (u.nextPixel c m))
      else m' := by
  rw [Block.memAfter, Block.nextMatched, h]
  rfl

/-- Of two buffers with pixels that share no byte one lies before the other. -/
theorem Block.bufEnd_le_of_disjoint {u v : Block} (hdis : u.overlaps v = false) {a b : Nat} (ha : u.inBuffer a)
    (hb : v.inBuffer b) : u.bufEnd ≤ v.bufBase.toNat ∨ v.bufEnd ≤ u.bufBase.toNat := by
  obtain h | h := min_le_iff.mp (Nat.le_of_not_lt (of_decide_eq_false hdis)) <;> obtain h | h := le_max_iff.mp h
  · exact absurd (ha.1.trans_lt ha.2) h.not_gt
  · exact .inl h
  · exact .inr h
  · exact absurd (hb.1.trans_lt hb.2) h.not_gt

/-- The next pixels of two units with disjoint buffers are apart. -/
theorem Block.nextPixel_apart {c : Config} {u v : Block} (hu : u.RunInv c) (hv : v.RunInv c)
    (hdis : u.overlaps v = false) :
    u.ea u.progress.toNat + 1 < v.ea v.progress.toNat ∨ v.ea v.progress.toNat + 1 < u.ea u.progress.toNat := by
  obtain ⟨-, -, -, -, -, -, hnextu, -⟩ := hu
  obtain ⟨-, -, -, -, -, -, hnextv, -⟩ := hv
  obtain ⟨hu, hu'⟩ := u.pixel_in_buffer hnextu
  obtain ⟨hv, hv'⟩ := v.pixel_in_buffer hnextv
  obtain h | h := Block.bufEnd_le_of_disjoint hdis hu hv
  · exact .inl (hu'.2.trans_le (h.trans hv.1))
  · exact .inr (hv'.2.trans_le (h.trans hu.1))

theorem Block.memAfter_comm {c : Config} {u v : Block} (hu : u.RunInv c) (hv : v.RunInv c)
    (hdis : u.overlaps v = false) {m : Memory} (hm : Memory.wf m) :
    v.memAfter c (u.memAfter c m) = u.memAfter c (v.memAfter c m) := by
  rw [Block.memAfter_of_nextPixel (Block.nextPixel_memAfter hu hv hdis m),
    Block.memAfter_of_nextPixel (Block.nextPixel_memAfter hv hu (Block.overlaps_comm u v ▸ hdis) m)]
  rw [Block.memAfter, Block.memAfter]
  cases u.nextMatched c m <;> cases v.nextMatched c m
  case true.true =>
    obtain h | h := Block.nextPixel_apart hu hv hdis
    · exact Memory.writePixel_comm hm.1 _ _ _ h
    · exact (Memory.writePixel_comm hm.1 _ _ _ h).symm
  all_goals rfl

theorem State.afterPixel_comm {s : State} {j k : Nat} {u v : Block} (hu : u.RunInv s.cfg) (hv : v.RunInv s.cfg)
    (hdis : u.overlaps v = false) (hm : Memory.wf s.mem) (hjk : j ≠ k) :
    (s.afterPixel j u).afterPixel k v = (s.afterPixel k v).afterPixel j u := by
  have hreadv := Block.nextPixel_memAfter hu hv hdis s.mem
  have hreadu := Block.nextPixel_memAfter hv hu (Block.overlaps_comm u v ▸ hdis) s.mem
  simp only [State.afterPixel, Block.nextMatched, hreadv, hreadu, Block.memAfter_comm hu hv hdis hm,
    List.set_comm _ _ hjk]

/-- Settles O28: each unit runs after the other's step as before it, and both steps together are `State.afterPixel`
twice, which commutes. -/
theorem enginesCommute : Obligations.EnginesCommute := by
  intro s j k u v hinv hdis hjk hu hv hbu hbv
  have hru := State.inv_runInv hinv hu hbu
  have hrv := State.inv_runInv hinv hv hbv
  have hoff := s.disjoint_iff.mp hdis j k u v hjk hu hv hbu hbv
  have ⟨_, _, _, hm, _⟩ := hinv
  refine ⟨_, _, _, State.engineStep_running hu hbu hru,
    State.engineStep_running ((s.afterPixel_other u hjk.symm).trans hv) hbv hrv,
    State.engineStep_running hv hbv hrv, ?_⟩
  rw [State.afterPixel_comm hru hrv hoff hm hjk]
  exact State.engineStep_running ((s.afterPixel_other v hjk).trans hu) hbu hru

end Sys2Proof.Machine
end

section
/-! The course of a buffer command (43_buffer.md R177, R178, 70_reset_and_hazards.md R231, R246): the finished pixels and
their count, relative to the memory the command started on, along engine steps and along every step; and that every
command ends. -/

namespace Sys2Proof.Machine

/-! ## Finished pixels and their count -/

/-- In memory `m` the pixels of the buffer below `n` are what the command makes of `m0`, and the others are as in `m0`. -/
def Block.Advanced (u : Block) (c : Config) (m0 m : Memory) (n : Nat) : Prop :=
  ∀ j, j < u.bufLen.toNat →
    Memory.readPixel c.byteOrder m (u.ea j) =
      if j < n then u.pixelAfter c.lutMode (Memory.readPixel c.byteOrder m0 (u.ea j))
      else Memory.readPixel c.byteOrder m0 (u.ea j)

/-- How many of the first `n` pixels in `m0` the command matches. -/
def Block.matchesBelow (u : Block) (c : Config) (m0 : Memory) (n : Nat) : Nat :=
  ((List.range n).filter fun j => u.pixelMatched c.lutMode (Memory.readPixel c.byteOrder m0 (u.ea j))).length

/-- The command of `u`, started on memory `m0`, has come as far in `m` as `PROGRESS` and `MATCH_COUNT` say. -/
def Block.RanFrom (u : Block) (c : Config) (m0 m : Memory) : Prop :=
  u.Advanced c m0 m u.progress.toNat ∧ u.matchCount.toNat = u.matchesBelow c m0 u.progress.toNat

theorem Block.progressed_iff (u : Block) (c : Config) (m : Memory) :
    u.Progressed c m ↔ (u.status.busy = true → u.RanFrom c u.before m) := Iff.rfl

/-- A command that has just started has finished nothing. -/
theorem Block.ranFrom_start {u : Block} (hp : u.progress = 0) (hc : u.matchCount = 0) (c : Config) (m : Memory) :
    u.RanFrom c m m := by
  rw [Block.RanFrom, hp, hc]
  exact ⟨fun j _ => (if_neg (Nat.not_lt_zero j)).symm, rfl⟩

theorem Block.matchesBelow_le (u : Block) (c : Config) (m0 : Memory) (n : Nat) : u.matchesBelow c m0 n ≤ n :=
  (List.length_filter_le ..).trans_eq List.length_range

theorem Block.matchesBelow_succ (u : Block) (c : Config) (m0 : Memory) (n : Nat) :
    u.matchesBelow c m0 (n + 1) = u.matchesBelow c m0 n +
      if u.pixelMatched c.lutMode (Memory.readPixel c.byteOrder m0 (u.ea n)) then 1 else 0 := by
  simp only [Block.matchesBelow, List.range_succ, List.filter_append, List.length_append, List.filter_singleton]
  cases u.pixelMatched c.lutMode (Memory.readPixel c.byteOrder m0 (u.ea n)) <;> rfl

/-- The next pixel still holds what the command started on. -/
theorem Block.RanFrom.nextPixel {u : Block} {c : Config} {m0 m : Memory} (h : u.RanFrom c m0 m)
    (hnext : u.progress.toNat < u.bufLen.toNat) :
    u.nextPixel c m = Memory.readPixel c.byteOrder m0 (u.ea u.progress.toNat) :=
  (h.1 _ hnext).trans (if_neg (Nat.lt_irrefl _))

theorem Block.ea_apart (u : Block) {i j : Nat} (h : i ≠ j) : u.ea i + 1 < u.ea j ∨ u.ea j + 1 < u.ea i := by
  have hlt {i j : Nat} (hij : i < j) : u.ea i + 1 < u.ea j :=
    (Nat.lt_succ_self _).trans_le (Nat.add_le_add_left (Nat.mul_le_mul_left 2 hij) _)
  exact (Nat.lt_or_gt_of_ne h).imp hlt hlt

/-- An engine step makes the next pixel what the command makes of it, and no other (R174, R175). -/
theorem Block.Advanced.memAfter {u : Block} {c : Config} {m0 m : Memory} (h : u.Advanced c m0 m u.progress.toNat)
    (hread : u.nextPixel c m = Memory.readPixel c.byteOrder m0 (u.ea u.progress.toNat)) :
    u.Advanced c m0 (u.memAfter c m) (u.progress.toNat + 1) := by
  intro j hj
  by_cases hlast : j = u.progress.toNat
  · rw [hlast, u.readPixel_memAfter_same, hread, if_pos (Nat.lt_succ_self _)]
  · rw [u.readPixel_memAfter_other c m (u.ea_apart hlast), h j hj]
    exact if_congr (Nat.lt_succ_iff_lt_or_eq.trans (or_iff_left hlast)).symm rfl rfl

/-- An engine step finishes the next pixel and counts it if it matches (R174). -/
theorem Block.RanFrom.afterPixel {u : Block} {c : Config} {m0 m : Memory} (h : u.RanFrom c m0 m)
    (hnext : u.progress.toNat < u.bufLen.toNat) :
    (u.afterPixel (u.nextMatched c m)).RanFrom c m0 (u.memAfter c m) := by
  have hread := h.nextPixel hnext
  obtain ⟨hpixels, hcount⟩ := h
  have hsucc : (u.afterPixel (u.nextMatched c m)).progress.toNat = u.progress.toNat + 1 := succ_toNat hnext
  have hless : u.matchCount.toNat < u.bufLen.toNat :=
    (hcount.trans_le (u.matchesBelow_le c m0 u.progress.toNat)).trans_lt hnext
  have hcount1 : (u.matchCount + 1).toNat = u.matchCount.toNat + 1 := succ_toNat hless
  rw [Block.RanFrom, hsucc]
  refine ⟨hpixels.memAfter hread, Eq.trans ?_ (u.matchesBelow_succ c m0 u.progress.toNat).symm⟩
  rw [Block.afterPixel_matchCount, Block.nextMatched, hread]
  split
  · rw [hcount1, hcount]
  · exact hcount

/-- Bytes outside the buffer do not matter to how far the command has come. -/
theorem Block.RanFrom.congr {u : Block} {c : Config} {m0 m m' : Memory} (h : u.RanFrom c m0 m)
    (hm : ∀ a, u.inBuffer a → Memory.byte m' a = Memory.byte m a) : u.RanFrom c m0 m' := by
  obtain ⟨hpixels, hcount⟩ := h
  refine ⟨fun j hj => (Memory.readPixel_congr ?_ ?_).trans (hpixels j hj), hcount⟩
  · exact hm _ (u.pixel_in_buffer hj).1
  · exact hm _ (u.pixel_in_buffer hj).2

/-! ## Along every step -/

theorem Block.activeAt_iff (u : Block) (a : Nat) : u.activeAt a = true ↔ u.status.busy = true ∧ u.inBuffer a := by
  rw [Block.activeAt, Bool.and_eq_true, Bool.and_eq_true, decide_eq_true_eq, decide_eq_true_eq, and_assoc]

/-- An address in the buffer of a busy unit is active. -/
theorem State.activeUnit_ne_none {s : State} {u : Block} (hu : u ∈ s.units) (hb : u.status.busy = true) {a : Nat}
    (ha : u.inBuffer a) : s.activeUnit a ≠ none := fun h =>
  absurd ((State.activeUnit_none.mp h u hu).symm.trans ((u.activeAt_iff a).mpr ⟨hb, ha⟩)) Bool.false_ne_true

/-- The engine of unit `k` advances its own command and touches no other one's buffer. -/
theorem State.afterPixel_progressed {s : State} (hinv : s.Inv) (hdis : s.Disjoint)
    (hall : ∀ u ∈ s.units, u.Progressed s.cfg s.mem) {k : Nat} {u : Block} (hu : s.units[k]? = some u)
    (hb : u.status.busy = true) : ∀ v ∈ (s.afterPixel k u).units, v.Progressed s.cfg (s.afterPixel k u).mem := by
  have hrun := State.inv_runInv hinv hu hb
  intro v hv
  obtain ⟨j, hj⟩ := List.getElem?_of_mem hv
  rw [Block.progressed_iff]
  intro hbv
  by_cases hjk : j = k
  · subst hjk
    obtain rfl := Option.some.inj ((State.afterPixel_unit hu).symm.trans hj)
    obtain ⟨-, -, -, hbefore⟩ | ⟨-, hidle, -⟩ := u.afterPixel_cases (u.nextMatched s.cfg s.mem)
    · obtain ⟨-, -, -, -, -, -, hnext, -⟩ := hrun
      rw [hbefore]
      exact ((u.progressed_iff ..).mp (hall u (List.mem_of_getElem? hu)) hb).afterPixel hnext
    · exact absurd (hidle.symm.trans hbv) Bool.false_ne_true
  · rw [s.afterPixel_other u hjk] at hj
    refine ((v.progressed_iff ..).mp (hall v (List.mem_of_getElem? hj)) hbv).congr fun a ha => ?_
    exact Block.byte_memAfter_of_disjoint hrun (s.disjoint_iff.mp hdis k j u v (Ne.symm hjk) hu hj hb hbv) s.mem ha

/-- A command that starts has finished nothing, its engine advances it, and without HOST_RACE nothing else writes to its
buffer. -/
theorem Moved.progressed {s t : State} {e : Option Event} (hmoved : Moved s e t) (hinv : s.Inv) (hdis : s.Disjoint)
    (hall : ∀ u ∈ s.units, u.Progressed s.cfg s.mem) (hrace : t.hostRace = false) :
    ∀ u ∈ t.units, u.Progressed t.cfg t.mem := by
  induction hmoved with
  | looked => exact hall
  | stored m _ r _ _ hf =>
    intro u hu
    rw [Block.progressed_iff]
    exact fun hb => ((u.progressed_iff ..).mp (hall u hu) hb).congr fun a ha =>
      hf hrace a (State.activeUnit_ne_none hu hb ha)
  | accessed k u v o hu hv =>
    refine forall_mem_set hall ?_ k
    rw [Block.progressed_iff]
    intro hb
    obtain ⟨hbu, -, x, rfl⟩ | ⟨-, -, i, rfl⟩ := hv.busy_cases hb
    · exact hall u (List.mem_of_getElem? hu) hbu
    · exact Block.ranFrom_start rfl rfl s.cfg s.mem
  | engine k u r hu hb _ hp =>
    rw [← State.afterPixel_eq hp]
    exact State.afterPixel_progressed hinv hdis hall hu hb
  | reset k => exact forall_mem_set hall (fun hb => absurd hb Bool.false_ne_true) k

/-- Settles O54: of the state with another agenda `Progressed` says the same. -/
theorem finishedPixelsStayFinal : Obligations.FinishedPixelsStayFinal := by
  intro s t hinv hdis hall hstep hrace
  obtain ⟨ag, e, hmoved, -⟩ := step_moved_agenda hstep
  exact hmoved.progressed hinv hdis hall hrace

/-! ## Along engine steps -/

theorem State.engineSteps_succ (s : State) (k n : Nat) :
    s.engineSteps k (n + 1) = (s.engineSteps k n).bind fun t => nextState (t.engineStep k) := by
  induction n generalizing s with
  | zero => exact Option.bind_fun_some (nextState (s.engineStep k))
  | succ n ih =>
    change (nextState (s.engineStep k)).bind (fun t => t.engineSteps k (n + 1)) =
      ((nextState (s.engineStep k)).bind fun t => t.engineSteps k n).bind fun t => nextState (t.engineStep k)
    rw [Option.bind_assoc]
    exact congrArg _ (funext ih)

/-- Where `n` engine steps have brought the command of `u`, which is unit `k` and has just started in `s`: the state is
`t`, and the unit is `v`. -/
structure RanSteps (s : State) (k : Nat) (u : Block) (n : Nat) (t : State) (v : Block) : Prop where
  steps : s.engineSteps k n = some t
  unit : t.units[k]? = some v
  inv : t.Inv
  cfg : t.cfg = s.cfg
  progress : v.progress.toNat = n
  busy : v.status.busy = true ↔ n < u.bufLen.toNat
  done : v.status.done = true ↔ n = u.bufLen.toNat
  command : ∃ x p c b, v = { u with status := x, progress := p, matchCount := c, before := b }
  ran : v.RanFrom s.cfg s.mem t.mem
  outside : ∀ a, ¬ u.inBuffer a → Memory.byte t.mem a = Memory.byte s.mem a

theorem ranSteps_zero {s : State} {k : Nat} {u : Block} (hinv : s.Inv) (hu : s.units[k]? = some u)
    (hb : u.status.busy = true) (hp : u.progress = 0) (hc : u.matchCount = 0) : RanSteps s k u 0 s u := by
  obtain ⟨hdone, -, -, -, -, -, hnext, -⟩ := State.inv_runInv hinv hu hb
  have hzero : u.progress.toNat = 0 := by rw [hp]; rfl
  rw [hzero] at hnext
  exact {
    steps := rfl
    unit := hu
    inv := hinv
    cfg := rfl
    progress := hzero
    busy := iff_of_true hb hnext
    done := iff_of_false (ne_true_of_eq_false hdone) (Nat.ne_of_lt hnext)
    command := ⟨_, _, _, _, rfl⟩
    ran := Block.ranFrom_start hp hc s.cfg s.mem
    outside := fun _ _ => rfl }

/-- As long as pixels are left, the next step processes one of them. -/
theorem RanSteps.succ {s t : State} {k : Nat} {u v : Block} {n : Nat} (h : RanSteps s k u n t v)
    (hn : n < u.bufLen.toNat) :
    RanSteps s k u (n + 1) (t.afterPixel k v) (v.afterPixel (v.nextMatched t.cfg t.mem)) := by
  have hb := h.busy.mpr hn
  have hrun := State.inv_runInv h.inv h.unit hb
  obtain ⟨x, p, c, b, hv⟩ := h.command
  have hlen : v.bufLen = u.bufLen := by rw [hv]
  have hbuf : ∀ a, v.inBuffer a ↔ u.inBuffer a := fun a => by rw [hv]; rfl
  have hnext : v.progress.toNat < v.bufLen.toNat := by rw [h.progress, hlen]; exact hn
  have hsucc : (v.progress + 1).toNat = n + 1 := (succ_toNat hnext).trans (by rw [h.progress])
  have hlast : v.progress + 1 = v.bufLen ↔ n + 1 = u.bufLen.toNat := by rw [BitVec.toNat_eq, hsucc, hlen]
  have hdone : v.status.done = false := Bool.eq_false_of_not_eq_true fun hd => Nat.ne_of_lt hn (h.done.mp hd)
  exact {
    steps := by rw [State.engineSteps_succ, h.steps, Option.bind_some, State.engineStep_running h.unit hb hrun]; rfl
    unit := State.afterPixel_unit h.unit
    inv := State.afterPixel_inv h.inv h.unit hb
    cfg := h.cfg
    progress := hsucc
    busy := by rw [Block.afterPixel_busy_iff hnext, h.progress, hlen]
    done := by rw [← hlast, Block.afterPixel_done, hdone, Bool.false_or, beq_iff_eq]
    command := ⟨_, _, _, _, by rw [hv]; rfl⟩
    ran := by
      rw [← h.cfg]
      exact Block.RanFrom.afterPixel (h.cfg ▸ h.ran) hnext
    outside := fun a ha => by
      rw [← hbuf] at ha
      exact (Block.byte_memAfter_outside hrun t.mem ha).trans (h.outside a ((hbuf a).not.mp ha)) }

theorem exists_ranSteps {s : State} {k : Nat} {u : Block} (hinv : s.Inv) (hu : s.units[k]? = some u)
    (hb : u.status.busy = true) (hp : u.progress = 0) (hc : u.matchCount = 0) :
    ∀ n, n ≤ u.bufLen.toNat → ∃ t v, RanSteps s k u n t v := by
  intro n hn
  induction n with
  | zero => exact ⟨s, u, ranSteps_zero hinv hu hb hp hc⟩
  | succ n ih =>
    obtain ⟨t, v, h⟩ := ih (Nat.le_of_succ_le hn)
    exact ⟨_, _, h.succ hn⟩

/-- Settles O26: the fields of `RanSteps`, with the pixels and their count read on `u`, whose command `v` has. -/
theorem bufferAfterEngineSteps : Obligations.BufferAfterEngineSteps := by
  intro s k u n hinv hu hb hp hc hn o
  obtain ⟨t, v, h⟩ := exists_ranSteps hinv hu hb hp hc n hn
  have hidle : v.status.busy = false ↔ n = u.bufLen.toNat := by
    rw [← Bool.not_eq_true, h.busy, Nat.not_lt]
    exact ⟨hn.antisymm, Eq.ge⟩
  obtain ⟨hpixels, hcount⟩ := h.ran
  rw [h.progress] at hpixels hcount
  refine ⟨t, v, h.steps, h.unit, h.progress, hidle, h.done, ?_, h.outside, ?_⟩
  all_goals obtain ⟨x, p, c, b, rfl⟩ := h.command
  · exact hpixels
  · exact hcount

/-! ## Every command ends -/

/-- How many pixels the engine of `u` has still to process. -/
def Block.pixelsLeft (u : Block) : Nat := if u.status.busy then u.bufLen.toNat - u.progress.toNat else 0

/-- How many pixels all engines have still to process. -/
def State.pixelsLeft (s : State) : Nat := (s.units.map Block.pixelsLeft).sum

theorem Block.pixelsLeft_afterPixel {u : Block} (hb : u.status.busy = true)
    (hnext : u.progress.toNat < u.bufLen.toNat) (m : Bool) : (u.afterPixel m).pixelsLeft < u.pixelsLeft := by
  have hsucc : (u.afterPixel m).progress.toNat = u.progress.toNat + 1 := succ_toNat hnext
  rw [Block.pixelsLeft, Block.pixelsLeft, if_pos hb, hsucc, Block.afterPixel_bufLen]
  split
  · exact Nat.sub_succ_lt_self _ _ hnext
  · exact Nat.sub_pos_of_lt hnext

theorem sum_set_lt {l : List Nat} {k x y : Nat} (hk : l[k]? = some x) (hy : y < x) : (l.set k y).sum < l.sum := by
  obtain ⟨hlt, rfl⟩ := List.getElem?_eq_some_iff.mp hk
  have hold : l.sum = (l.set k l[k]).sum := by rw [List.set_getElem_self]
  rw [hold, List.sum_set, List.sum_set, if_pos hlt, if_pos hlt]
  exact Nat.add_lt_add_right (Nat.add_lt_add_left hy _) _

theorem State.pixelsLeft_afterPixel {s : State} (hinv : s.Inv) {k : Nat} {u : Block} (hu : s.units[k]? = some u)
    (hb : u.status.busy = true) : (s.afterPixel k u).pixelsLeft < s.pixelsLeft := by
  obtain ⟨-, -, -, -, -, -, hnext, -⟩ := State.inv_runInv hinv hu hb
  rw [State.pixelsLeft, State.afterPixel, List.map_set]
  exact sum_set_lt (by rw [List.getElem?_map, hu]; rfl) (Block.pixelsLeft_afterPixel hb hnext _)

/-- With no entry to come the platform is idle, or the first busy unit's engine makes a step (log 3). -/
theorem step_without_agenda {s : State} (hinv : s.Inv) (ha : s.agenda = []) :
    (∀ u ∈ s.units, u.status.busy = false) ∨
    ∃ k u, s.units[k]? = some u ∧ u.status.busy = true ∧ step s = .next (s.afterPixel k u) := by
  have ⟨hl, _⟩ := hinv
  cases hfind : s.units.findIdx? (fun u => u.status.busy) with
  | none => exact .inl (List.findIdx?_eq_none_iff.mp hfind)
  | some k =>
    obtain ⟨hk, hb, -⟩ := List.findIdx?_eq_some_iff_getElem.mp hfind
    have hu := List.getElem?_eq_getElem hk
    refine .inr ⟨k, _, hu, hb, ?_⟩
    rw [step_settle hl ha, State.settle, hfind]
    exact State.engineStep_running hu hb (State.inv_runInv hinv hu hb)

theorem run_succ_of_next (M : Host.Core) {s t : M.State} (h : M.step s = .next t) (n : Nat) :
    M.run (n + 1) s = M.run n t := by
  rw [Host.Core.run, h]

/-- Settles O59: with no entry to come every step but on an idle platform leaves one pixel less. -/
theorem runningCommandsComplete : Obligations.RunningCommandsComplete := by
  intro s
  induction hleft : s.pixelsLeft using Nat.strong_induction_on generalizing s with
  | _ left ih =>
    intro hinv ha
    obtain hidle | ⟨k, u, hu, hb, hstep⟩ := step_without_agenda hinv ha
    · exact ⟨0, s, rfl, hidle⟩
    · obtain ⟨n, t, hrun, ht⟩ := ih _ (hleft ▸ State.pixelsLeft_afterPixel hinv hu hb) (s.afterPixel k u) rfl
        (State.afterPixel_inv hinv hu hb) ha
      exact ⟨n + 1, t, (run_succ_of_next Sys2Proof.core hstep n).trans hrun, ht⟩

end Sys2Proof.Machine
end

section
/-! Command issue and the single-pixel commands (10_state.md R26, R27, 42_pixel_adjust.md R140 to R154, 60_exceptions.md
R203, R204): how a step issues a word, what rejects a command, and the unit after each command that is accepted. -/

namespace Sys2Proof.Machine

/-! ## From a step to a command -/

theorem State.issue_of_decode_ok {s : State} {u : Block} {w : Word} {i : Instr} (hidle : s.Idle u)
    (hd : decode s.cfg.maxRules w = .ok i) : s.issue w = exec i s := by
  simp [State.issue, hidle.1, hidle.2, hd]

theorem State.issue_of_decode_error {s : State} {u : Block} {w : Word} {e : CmdError} (hidle : s.Idle u)
    (hd : decode s.cfg.maxRules w = .error e) : s.issue w = .next (s.setUnit (u.reject e)) := by
  simp [State.issue, hidle.1, hidle.2, hd]

/-- Settles O5: the step issues the word on the unit addressed, which is not busy. -/
theorem stepRunsDecodedCommand : Obligations.StepRunsDecodedCommand := by
  intro s k base w i rest u hl hk hu hb hd hag
  rw [step_regWrite hl hk hu (by decide) (by decide) hag, if_pos rfl]
  exact State.issue_of_decode_ok ⟨hu, hb⟩ hd

/-- Settles O6: the step issues the word, which is rejected with the code of the cause. -/
theorem undecodableWordRejected : Obligations.UndecodableWordRejected := by
  intro s k base w e rest u hl hk hu hb hd hag
  rw [step_regWrite hl hk hu (by decide) (by decide) hag, if_pos rfl]
  exact State.issue_of_decode_error ⟨hu, hb⟩ hd

/-! ## The checks every command shares -/

/-- Every command is issued through the shared checks (60_exceptions.md R203). -/
theorem exec_issueTo (i : Instr) (s : State) : ∃ f, exec i s = s.issueTo i f := by
  cases i <;> exact ⟨_, rfl⟩

theorem exec_of_busy {s : State} {u : Block} (hu : s.units[s.sel]? = some u) (hb : u.status.busy = true) (i : Instr) :
    exec i s = .next (s.setUnit u.ignoreWrite) := by
  obtain ⟨f, hf⟩ := exec_issueTo i s
  rw [hf, State.issueTo_busy i f hu hb]

theorem exec_of_issueError {s : State} {u : Block} {i : Instr} {e : CmdError} (hidle : s.Idle u)
    (he : u.issueError s.cfg.maxRules i = some e) : exec i s = .next (s.setUnit (u.reject e)) := by
  obtain ⟨f, hf⟩ := exec_issueTo i s
  rw [hf, State.issueTo_reject f hidle.1 hidle.2 he]

theorem Block.issueError_of_not_wf {n : Nat} {i : Instr} (hwf : i.wf n = false) (u : Block) :
    u.issueError n i = some .ruleIndex := by
  simp [Block.issueError, hwf]

theorem Block.issueError_of_ruleCount {u : Block} {n : Nat} {i : Instr} (hwf : i.wf n = true)
    (huse : usesRuleCount i = true) (hcount : n < u.ruleCount.toNat) : u.issueError n i = some .ruleCount := by
  simp [Block.issueError, hwf, huse, hcount]

/-- Settles O16: the check of BUSY comes before every other one. -/
theorem busyUnitIgnoresCommands : Obligations.BusyUnitIgnoresCommands := fun _ _ i hu hb => exec_of_busy hu hb i

/-- Settles O17: such a command is not well formed. -/
theorem ruleIndexRejected : Obligations.RuleIndexRejected := by
  intro s u r i hidle hr hi
  have hwf : i.wf s.cfg.maxRules = false := by
    obtain rfl | rfl | rfl := hi <;> exact decide_eq_false (Nat.not_lt.mpr hr)
  exact exec_of_issueError hidle (u.issueError_of_not_wf hwf)

/-- Settles O18: both commands are well formed, and use the rules below COUNT. -/
theorem ruleCountRejected : Obligations.RuleCountRejected := by
  intro s u i hidle hcount hi
  refine exec_of_issueError hidle (Block.issueError_of_ruleCount ?_ ?_ hcount) <;> obtain rfl | rfl := hi <;> rfl

/-! ## The results of the single-pixel commands -/

/-- Settles O7: the body of the command is `Block.finish` alone. -/
theorem nopResult : Obligations.NopResult := by
  intro s u hidle
  unfold exec execNop
  exact State.runSingle_idle (i := .nop) hidle rfl nofun _

/-- Settles O8: the body of the command writes `HSV_OUT` and finishes. -/
theorem rgb2hsvResult : Obligations.Rgb2hsvResult := by
  intro s u hidle
  unfold exec execRgb2hsv
  exact State.runSingle_idle (i := .rgb2hsv) hidle rfl nofun _

/-- Settles O9: the body of the command writes `PIX_OUT` and finishes. -/
theorem hsv2rgbResult : Obligations.Hsv2rgbResult := by
  intro s u hidle
  unfold exec execHsv2rgb
  exact State.runSingle_idle (i := .hsv2rgb) hidle rfl nofun _

/-- Settles O11: the body of the command writes both outputs and finishes with a match. -/
theorem pxshiftResult : Obligations.PxshiftResult := by
  intro s u hidle
  unfold exec execPxshift
  exact State.runSingle_idle (i := .pxshift) hidle rfl nofun _

theorem inBand_eq_decide (h t r : Byte) : inBand h t r = decide (circDist h t ≤ r.toNat) := by
  rw [Bool.eq_iff_iff, inBand_iff, decide_eq_true_iff]

/-- Settles O10: the predicate is the circular distance compared with RADIUS, which the statement writes out. -/
theorem inbandResult : Obligations.InbandResult := by
  intro s u i hidle hi d m
  have hm : inBand u.hsvIn.h (u.ruleAt i.toNat).target (u.ruleAt i.toNat).radius = m := inBand_eq_decide ..
  unfold exec execInband
  rw [← hm]
  exact State.runSingle_idle (i := .inband i) hidle (decide_eq_true hi) nofun _

theorem adjustSingle_of_not_covers {m : LutMode} {p : Pixel} {r : RuleSlot} (hr : ¬ r.covers m p = true) :
    adjustSingle m p r = { matched := false, hit := 0, pixel := p } := if_neg hr

/-- The adjustment by one rule, in fields (42_pixel_adjust.md R145). -/
theorem adjustSingle_eq (m : LutMode) (p : Pixel) (r : RuleSlot) :
    adjustSingle m p r =
      { matched := r.covers m p, hit := 0, pixel := if r.covers m p then r.apply m p else p } := by
  by_cases hr : r.covers m p = true
  · rw [adjustSingle_of_covers hr, hr, if_pos rfl]
  · rw [adjustSingle_of_not_covers hr, Bool.eq_false_of_not_eq_true hr, if_neg Bool.false_ne_true]

/-- `PXBAND` on a unit that is not busy, by the adjustment it makes. -/
theorem exec_pxband {s : State} {u : Block} {i : RuleIdx} (hidle : s.Idle u) (hi : i.toNat < s.cfg.maxRules)
    {r : Adjusted} (hr : adjustSingle s.cfg.lutMode u.pixIn (u.ruleAt i.toNat) = r) :
    exec (.pxband i) s = .next (s.setUnit
      { u with cmd := encode (.pxband i), hsvOut := rgb565ToHsv s.cfg.lutMode u.pixIn, pixOut := r.pixel,
               status := { u.status with matched := r.matched, hit := if r.matched then i else 0, done := true } }) := by
  unfold exec execPxband
  rw [← hr]
  exact State.runSingle_idle (i := .pxband i) hidle (decide_eq_true hi) nofun _

/-- `PXMULTI` on a unit that is not busy, by the adjustment it makes. -/
theorem exec_pxmulti {s : State} {u : Block} (hidle : s.Idle u) (hcount : u.ruleCount.toNat ≤ s.cfg.maxRules)
    {r : Adjusted} (hr : adjustMulti s.cfg.lutMode u.pixIn u.ruleList = r) :
    exec .pxmulti s = .next (s.setUnit
      { u with cmd := encode .pxmulti, hsvOut := rgb565ToHsv s.cfg.lutMode u.pixIn, pixOut := r.pixel,
               status := { u.status with matched := r.matched, hit := r.hit, done := true } }) := by
  unfold exec execPxmulti
  rw [← hr]
  exact State.runSingle_idle hidle rfl (fun _ => hcount) _

/-- Settles O12: the adjustment by the slot, in fields. -/
theorem pxbandResult : Obligations.PxbandResult := fun _ _ _ hidle hi =>
  exec_pxband hidle hi (adjustSingle_eq ..)

/-- Settles O13: the search over the rule list ends at slot `k`. -/
theorem pxmultiFirstMatch : Obligations.PxmultiFirstMatch := by
  intro s u k hidle hcount _ hlen hk x hin hlower
  have hslot : ∀ j, j ≤ k → u.ruleList[j]? = some (u.ruleAt j) := fun j hj =>
    Block.ruleList_get (by omega) (by omega)
  have hfirst : firstMatch s.cfg.lutMode u.pixIn 0 u.ruleList = some (0 + k, u.ruleAt k) := by
    refine firstMatch_some 0 (hslot k (Nat.le_refl k)) hin fun j r hj hr => ?_
    obtain rfl := Option.some.inj ((hslot j (Nat.le_of_lt hj)).symm.trans hr)
    exact hlower j hj
  rw [Nat.zero_add] at hfirst
  exact exec_pxmulti hidle hcount (by rw [adjustMulti, hfirst])

/-- Settles O14: the search over the rule list finds nothing. -/
theorem pxmultiNoMatch : Obligations.PxmultiNoMatch := by
  intro s u hidle hcount _ x hnone
  have hfirst : firstMatch s.cfg.lutMode u.pixIn 0 u.ruleList = none := by
    refine firstMatch_none 0 fun r hr => ?_
    obtain ⟨k, hk, -, rfl⟩ := Block.ruleList_mem hr
    exact hnone k hk
  exact exec_pxmulti hidle hcount (by rw [adjustMulti, hfirst])

/-! ## What the single-pixel commands leave unchanged -/

theorem usesRuleCount_iff (i : Instr) : usesRuleCount i = true ↔ i = .pxmulti ∨ i = .bufmulti := by
  cases i with
  | pxmulti => exact iff_of_true rfl (.inl rfl)
  | bufmulti => exact iff_of_true rfl (.inr rfl)
  | _ => exact iff_of_false Bool.false_ne_true (by rintro (h | h) <;> cases h)

/-- Only the checks shared by all commands reject a single-pixel command, and none rejects an accepted one. -/
theorem Block.not_rejected_of_accepted {s : State} {u : Block} {i : Instr} {e : CmdError} (hop : i.opcode.toNat ≤ 6)
    (hwf : i.wf s.cfg.maxRules = true) (hcount : i = .pxmulti → u.ruleCount.toNat ≤ s.cfg.maxRules) :
    ¬(u.issueError s.cfg.maxRules i = some e ∨ u.issueError s.cfg.maxRules i = none ∧
      8 ≤ i.opcode.toNat ∧ u.bufferCheck s.cfg i = .rejected e) := by
  have hnone : u.issueError s.cfg.maxRules i = none := by
    refine Block.issueError_none hwf fun huse => ?_
    obtain hi | rfl := (usesRuleCount_iff i).mp huse
    · exact hcount hi
    · exact absurd hop (by decide)
  rintro (he | ⟨-, hop', -⟩)
  · rw [hnone] at he
    cases he
  · exact absurd (hop'.trans hop) (by decide)

/-- What a single-pixel command that is answered leaves of its unit. -/
structure SingleFrame (i : Instr) (u v : Block) : Prop where
  fields : v = { u with cmd := v.cmd, status := v.status, pixOut := v.pixOut, hsvOut := v.hsvOut }
  busy : v.status.busy = u.status.busy
  pixOut : i.opcode = 0 ∨ i.opcode = 1 ∨ i.opcode = 3 → v.pixOut = u.pixOut
  hsvOut : i.opcode = 0 ∨ i.opcode = 2 ∨ i.opcode = 3 → v.hsvOut = u.hsvOut

/-- Of the ways a command can be answered, the seven single-pixel commands are ignored, rejected or finished. -/
theorem Issued.singleFrame {s : State} {i : Instr} {u v : Block} {o : Bool} (hi : Issued s i u v o)
    (hop : i.opcode.toNat ≤ 6) : o = s.unitOverlap ∧ SingleFrame i u v := by
  induction hi with
  | ignored | rejected => exact ⟨rfl, rfl, rfl, fun _ => rfl, fun _ => rfl⟩
  | single _ _ _ x q m k _ hq hx => exact ⟨rfl, rfl, rfl, hq, hx⟩
  | noop _ _ ho | started _ _ ho => exact absurd (ho.trans hop) (by decide)

/-- An accepted single-pixel command leaves the error bits and WIGN. -/
theorem Issued.single_status {s : State} {i : Instr} {u v : Block} {o : Bool} (hi : Issued s i u v o)
    (hop : i.opcode.toNat ≤ 6) (hb : u.status.busy = false) (hwf : i.wf s.cfg.maxRules = true)
    (hcount : i = .pxmulti → u.ruleCount.toNat ≤ s.cfg.maxRules) :
    v.status.err = u.status.err ∧ v.status.errCode = u.status.errCode ∧ v.status.wign = u.status.wign := by
  induction hi with
  | ignored hb' => exact absurd (hb.symm.trans hb') Bool.false_ne_true
  | rejected _ e he => exact absurd he (Block.not_rejected_of_accepted hop hwf hcount)
  | single => exact ⟨rfl, rfl, rfl⟩
  | noop _ _ ho | started _ _ ho => exact absurd (ho.trans hop) (by decide)

/-- Settles O15: the frame of the answer, field by field. -/
theorem singlePixelFrame : Obligations.SinglePixelFrame := by
  intro s t u i hu hop hexec
  obtain ⟨u', v, o, hu', hi, rfl⟩ := exec_issued hexec
  obtain rfl : u = u' := Option.some.inj (hu.symm.trans hu')
  have hsel : s.sel < s.units.length := (List.getElem?_eq_some_iff.mp hu).1
  have hframe := hi.singleFrame hop
  have hf {α : Type} (f : Block → α) := congrArg f hframe.2.fields
  exact ⟨rfl, fun _ => rfl, rfl, hframe.1, rfl, rfl, rfl, rfl, fun k hk => List.getElem?_set_ne (Ne.symm hk), v,
    List.getElem?_set_self hsel, hf Block.pixIn, hf Block.hsvIn, hf Block.bufBase,
    hf Block.bufLen, hf Block.gHueShift, hf Block.gSatShift, hf Block.ruleCount,
    hf Block.rules, hf Block.matchCount, hf Block.progress, hf Block.before,
    hframe.2.busy, hframe.2.pixOut, hframe.2.hsvOut, hi.single_status hop⟩

end Sys2Proof.Machine
end

section
/-! The buffer commands at issue (43_buffer.md R172, R173, 60_exceptions.md R203, R205, R222): their checks in order, what
they write and leave unchanged, and that over one pixel they do what the single-pixel forms do (R179). -/

namespace Sys2Proof.Machine

/-! ## The checks -/

theorem rangeAdmit_iff (c : Config) (lo hi : Nat) :
    c.rangeAdmit lo hi = true ↔ ∀ a, lo ≤ a → a < hi → c.memAdmit a = true :=
  ⟨Config.memAdmit_of_rangeAdmit, Config.rangeAdmit_of_memAdmit⟩

theorem rangeAdmit_eq_false_iff (c : Config) (lo hi : Nat) :
    c.rangeAdmit lo hi = false ↔ ∃ a, lo ≤ a ∧ a < hi ∧ c.memAdmit a = false := by
  rw [← Bool.not_eq_true, rangeAdmit_iff]
  simp

theorem odd_iff (w : Word) : w.getLsbD 0 = true ↔ w.toNat % 2 = 1 := by
  simp [BitVec.getLsbD, Nat.testBit_zero]

/-- A buffer command that passes its checks starts (43_buffer.md R172). -/
theorem exec_of_run {s : State} {u : Block} {i : Instr} (hidle : s.Idle u) (hop : 8 ≤ i.opcode.toNat)
    (hwf : i.wf s.cfg.maxRules = true) (hcount : i = .bufmulti → u.ruleCount.toNat ≤ s.cfg.maxRules)
    (hrun : u.bufferCheck s.cfg i = .run) :
    exec i s = .next { s.setUnit (u.startBuffer i s.mem) with
      unitOverlap := s.unitOverlap || s.overlapsBusy u } := by
  rw [exec_buffer hidle.1 hidle.2 hop hwf hcount, hrun]

theorem exec_of_rejected {s : State} {u : Block} {i : Instr} {e : CmdError} (hidle : s.Idle u)
    (hop : 8 ≤ i.opcode.toNat) (hwf : i.wf s.cfg.maxRules = true)
    (hcount : i = .bufmulti → u.ruleCount.toNat ≤ s.cfg.maxRules) (hrej : u.bufferCheck s.cfg i = .rejected e) :
    exec i s = .next (s.setUnit (u.reject e)) := by
  rw [exec_buffer hidle.1 hidle.2 hop hwf hcount, hrej]

/-- Settles O19: the four answers of `Block.bufferCheck`, with RANGE read byte by byte. -/
theorem bufferChecksInOrder : Obligations.BufferChecksInOrder := by
  intro s u i hidle hop hwf hcount noop odd outside
  have hsel : s.sel < s.units.length := (List.getElem?_eq_some_iff.mp hidle.1).1
  obtain ⟨-, halign, hrange, hrun⟩ := u.bufferCheck_answers s.cfg i
  have heven : ¬ odd → u.bufBase.getLsbD 0 = false := fun ho =>
    Bool.eq_false_of_not_eq_true (mt (odd_iff u.bufBase).mp ho)
  have hout : outside ↔ memSize < u.bufEnd ∨ s.cfg.rangeAdmit u.bufBase.toNat u.bufEnd = false := by
    rw [rangeAdmit_eq_false_iff]
    rfl
  refine ⟨fun hn => ?noop, fun hn ho => ?align, fun hn ho hx => ?range, fun hn ho hx => ?run⟩
  case noop =>
    exact ⟨_, _, bufferNoop s u i hidle hop hwf hcount hn, List.getElem?_set_self hsel, hidle.2, rfl, rfl, rfl⟩
  case align => exact exec_of_rejected hidle hop hwf hcount (halign hn ((odd_iff _).mpr ho))
  case range => exact exec_of_rejected hidle hop hwf hcount (hrange hn (heven ho) (hout.mp hx))
  case run =>
    rw [hout, not_or, Bool.not_eq_false] at hx
    exact ⟨_, _, exec_of_run hidle hop hwf hcount (hrun hn (heven ho) hx.1 hx.2), List.getElem?_set_self hsel, rfl, rfl,
      rfl, rfl⟩

/-- What the checks ask, in numbers, makes a buffer command run. -/
theorem Block.bufferCheck_eq_run {u : Block} {c : Config} {i : Instr} (hrules : i = .bufmulti → u.ruleCount ≠ 0)
    (hbase : u.bufBase ≠ 0) (hlen : u.bufLen ≠ 0) (heven : u.bufBase.toNat % 2 = 0) (hend : u.bufEnd ≤ memSize)
    (hadmit : ∀ a, u.inBuffer a → c.memAdmit a = true) : u.bufferCheck c i = .run := by
  obtain ⟨-, -, -, hrun⟩ := u.bufferCheck_answers c i
  refine hrun ?_ ((even_iff _).mpr heven) (Nat.not_lt.mpr hend) ?_
  · rintro (h | h | ⟨hi, h⟩)
    · exact hbase h
    · exact hlen h
    · exact hrules hi h
  · exact (rangeAdmit_iff ..).mpr fun a hlo hhi => hadmit a ⟨hlo, hhi⟩

theorem State.overlapsBusy_iff (s : State) (u : Block) :
    s.overlapsBusy u = true ↔
      ∃ v ∈ s.units, v.status.busy = true ∧ ∃ a, u.inBuffer a ∧ v.inBuffer a := by
  simp only [State.overlapsBusy, List.any_eq_true, Bool.and_eq_true, Block.overlaps_iff, Block.inBuffer]

/-- The three buffer commands are those with an opcode from 8 on. -/
theorem opcode_of_buffer {i : Instr} {r : RuleIdx} (h : i = .bufshift ∨ i = .bufband r ∨ i = .bufmulti) :
    8 ≤ i.opcode.toNat := by
  obtain rfl | rfl | rfl := h
  · exact Nat.le_refl 8
  · exact Nat.le_succ 8
  · exact Nat.le_add_right 8 2

/-- Settles O21: the checks pass, and `Block.startBuffer` is the block written out. -/
theorem bufferAccepted : Obligations.BufferAccepted := by
  intro s u r i hidle hi hwf hcount hbase hlen heven hend hadmit
  have hop : 8 ≤ i.opcode.toNat := opcode_of_buffer hi
  have hrun : u.bufferCheck s.cfg i = .run :=
    Block.bufferCheck_eq_run (fun h => (hcount h).1) hbase hlen heven hend fun a ha => hadmit a ha.1 ha.2
  refine ⟨_, ?_, exec_of_run hidle hop hwf (fun h => (hcount h).2) hrun⟩
  rw [Bool.or_eq_true, State.overlapsBusy_iff]

/-! ## What the buffer commands leave unchanged at issue -/

/-- Of the ways a command can be answered, the three buffer commands are ignored, rejected, a no-op or started. -/
theorem Issued.bufferFrame {s : State} {i : Instr} {u v : Block} {o : Bool} (hi : Issued s i u v o)
    (hop : 8 ≤ i.opcode.toNat) :
    v = { u with cmd := v.cmd, status := v.status, matchCount := v.matchCount, progress := v.progress,
                 before := v.before } ∧ (u.status.busy = false → v.status.wign = u.status.wign) := by
  induction hi with
  | ignored hb => exact ⟨rfl, fun hb' => absurd (hb'.symm.trans hb) Bool.false_ne_true⟩
  | single _ _ ho => exact absurd (hop.trans ho) (by decide)
  | rejected | noop | started => exact ⟨rfl, fun _ => rfl⟩

/-- Settles O22: the frame of the answer, field by field. -/
theorem bufferIssueFrame : Obligations.BufferIssueFrame := by
  intro s t u i hu hop hexec
  obtain ⟨u', v, o, hu', hi, rfl⟩ := exec_issued hexec
  obtain rfl : u = u' := Option.some.inj (hu.symm.trans hu')
  have hsel : s.sel < s.units.length := (List.getElem?_eq_some_iff.mp hu).1
  have hframe := hi.bufferFrame hop
  have hf {α : Type} (f : Block → α) := congrArg f hframe.1
  exact ⟨rfl, fun _ => rfl, rfl, rfl, rfl, rfl, rfl, fun k hk => List.getElem?_set_ne (Ne.symm hk), v,
    List.getElem?_set_self hsel, hf Block.pixIn, hf Block.hsvIn, hf Block.pixOut,
    hf Block.hsvOut, hf Block.bufBase, hf Block.bufLen, hf Block.gHueShift,
    hf Block.gSatShift, hf Block.ruleCount, hf Block.rules, hframe.2⟩

/-! ## One pixel -/

/-- The single-pixel form of a buffer command computes what the function of that command makes of `PIX_IN`. -/
theorem exec_single_form {s : State} {u : Block} {r : RuleIdx} {i j : Instr} (hidle : s.Idle u)
    (hij : i = .bufshift ∧ j = .pxshift ∨ i = .bufband r ∧ j = .pxband r ∨ i = .bufmulti ∧ j = .pxmulti)
    (hwf : i.wf s.cfg.maxRules = true) (hcount : i = .bufmulti → u.ruleCount.toNat ≤ s.cfg.maxRules) :
    ∃ x w, (u.startBuffer i s.mem).pixfn s.cfg.lutMode u.pixIn = some x ∧ exec j s = .next (s.setUnit w) ∧
      w.pixOut = x.pixel ∧ w.status.matched = x.matched := by
  obtain ⟨rfl, rfl⟩ | ⟨rfl, rfl⟩ | ⟨rfl, rfl⟩ := hij
  · exact ⟨_, _, Block.pixfn_of_opcode (.inl ⟨rfl, rfl⟩), pxshiftResult s u hidle, rfl, rfl⟩
  · refine ⟨_, _, Block.pixfn_of_opcode (.inr (.inl ⟨?_, rfl⟩)), exec_pxband hidle (of_decide_eq_true hwf) rfl, ?_, ?_⟩
    · rw [Block.startBuffer_cmd, opField_encode]
      rfl
    all_goals
      rw [Block.startBuffer_cmd, ridxField_encode]
      rfl
  · exact ⟨_, _, Block.pixfn_of_opcode (.inr (.inr ⟨rfl, rfl⟩)), exec_pxmulti hidle (hcount rfl) rfl, rfl, rfl⟩

/-- The engine step of a unit that has just started over one pixel finishes the command. -/
theorem State.engineStep_only {s : State} {k : Nat} {u : Block} {r : Adjusted} (hu : s.units[k]? = some u)
    (hb : u.status.busy = true) (hrun : u.RunInv s.cfg) (hprogress : u.progress = 0) (hlen : u.bufLen = 1)
    (hcount : u.matchCount = 0)
    (hr : u.pixfn s.cfg.lutMode (Memory.readPixel s.cfg.byteOrder s.mem u.bufBase.toNat) = some r) :
    ∃ t v, s.engineStep k = .next t ∧ t.units[k]? = some v ∧ v.status.busy = false ∧
      Memory.readPixel s.cfg.byteOrder t.mem u.bufBase.toNat = r.pixel ∧
      v.matchCount.toNat = if r.matched then 1 else 0 := by
  have hea : u.ea u.progress.toNat = u.bufBase.toNat := by rw [hprogress]; rfl
  have hr : u.pixfn s.cfg.lutMode (u.nextPixel s.cfg s.mem) = some r := by rwa [Block.nextPixel, hea]
  refine ⟨_, _, State.engineStep_running hu hb hrun, State.afterPixel_unit hu, ?busy, ?pixel, ?count⟩
  case busy => rw [Block.afterPixel_busy, hprogress, hlen]; rfl
  case pixel => rw [← hea, State.afterPixel, Block.readPixel_memAfter_same, Block.pixelAfter, hr]
  case count =>
    have hmatched : u.nextMatched s.cfg s.mem = r.matched := by rw [Block.nextMatched, Block.pixelMatched, hr]
    rw [Block.afterPixel_matchCount, hcount, hmatched]
    cases r.matched <;> rfl

/-- Settles O27: the one engine step processes the pixel at `BUF_BASE`, which is `PIX_IN`, with the function that the
single-pixel form applies. -/
theorem bufferOfOneIsSinglePixel : Obligations.BufferOfOneIsSinglePixel := by
  intro s u r i j hinv hidle hij hwf hcount hlen hbase heven hend hlo hhi hpix
  have hsel : s.sel < s.units.length := (List.getElem?_eq_some_iff.mp hidle.1).1
  have hop : 8 ≤ i.opcode.toNat := opcode_of_buffer (hij.imp And.left (Or.imp And.left And.left))
  have hle : i = .bufmulti → u.ruleCount.toNat ≤ s.cfg.maxRules := fun h => (hcount h).2
  have hbufEnd : u.bufEnd = u.bufBase.toNat + 2 := by rw [Block.bufEnd, hlen]; rfl
  have hcheck : u.bufferCheck s.cfg i = .run :=
    Block.bufferCheck_eq_run (fun h => (hcount h).1) hbase (hlen ▸ by decide) heven (hbufEnd ▸ hend) fun a ha =>
      (Nat.eq_or_lt_of_le ha.1).elim (· ▸ hlo) fun hlt =>
        Nat.le_antisymm hlt (Nat.le_of_lt_succ (ha.2.trans_eq hbufEnd)) ▸ hhi
  have herr : u.issueError s.cfg.maxRules i = none := Block.issueError_none hwf fun huse =>
    ((usesRuleCount_iff i).mp huse).elim (fun h => absurd (h ▸ hop) (by decide)) hle
  obtain ⟨x, w, hx, hexec, hpixel, hmatched⟩ := exec_single_form hidle hij hwf hle
  rw [hpix] at hx
  obtain ⟨t, v, hstep, hv, hbusy, hmem, hmatch⟩ := State.engineStep_only
    (s := { s.setUnit (u.startBuffer i s.mem) with unitOverlap := s.unitOverlap || s.overlapsBusy u })
    (List.getElem?_set_self hsel) rfl (Block.startBuffer_runInv herr hop hcheck) rfl hlen rfl hx
  exact ⟨_, t, _, v, w, exec_of_run hidle hop hwf hle hcheck, hstep, hexec, hv, List.getElem?_set_self hsel, hbusy,
    hmem.trans hpixel.symm, hmatched ▸ hmatch⟩

end Sys2Proof.Machine
end

section
/-! The register block (10_state.md R20 to R38, 70_reset_and_hazards.md R230, R232): which accesses are refused, the
steps of register accesses and of a reset, and the words that registers read as, field by field. -/

namespace Sys2Proof.Machine

/-! ## Refused steps -/

theorem step_of_not_legal {s : State} (hl : ¬ s.cfg.legal = true) : step s = .refused .badParameter := by
  simp [step, State.advance, hl]

/-- No admitted byte lies in a register block (20_memory.md R64). -/
theorem memAdmit_off_block {c : Config} (hl : c.legal = true) {b a : Nat} (hb : b ∈ c.regBases) (hlo : b ≤ a)
    (hhi : a < b + 256) : c.memAdmit a = false := by
  obtain ⟨-, -, -, -, hregions⟩ := c.legal_iff.mp hl
  rw [← Bool.not_eq_true, Config.memAdmit_iff]
  rintro ⟨r, hr, hra, hra'⟩
  obtain ⟨-, hoff⟩ := hregions r hr
  have hclear := hoff b hb
  simp only [Region.offBlock, Bool.or_eq_true, beq_iff_eq, decide_eq_true_eq] at hclear
  obtain (hempty | hbelow) | habove := hclear
  · rw [Region.stop, hempty] at hra'
    exact hra'.not_ge hra
  · exact hra'.not_ge (hbelow.trans hlo)
  · exact hhi.not_ge (habove.trans hra)

/-- Settles O60: each of the grounds contradicts a clause of `Config.legal`. -/
theorem illegalParametersRefused : Obligations.IllegalParametersRefused := by
  intro s hground
  refine step_of_not_legal fun hl => ?_
  obtain ⟨hmin, hmax, hunits, hbases, -⟩ := s.cfg.legal_iff.mp hl
  obtain h | h | h | ⟨b, hb, h | ⟨a, hlo, hhi, hadmit⟩⟩ := hground
  · exact absurd hmin (by rw [h]; decide)
  · exact absurd hmax h.not_ge
  · simp [h] at hunits
  · exact h (regBasesLegal_mod hbases hb)
  · simp [memAdmit_off_block hl hb hlo hhi] at hadmit

/-- An access that is not an aligned 32-bit access to some unit's block reaches none (10_state.md R22). -/
theorem route_eq_none {c : Config} (hl : c.legal = true) {addr : Nat} {width : AccessWidth}
    (h : width = .b8 ∨ width = .b16 ∨ addr % 4 ≠ 0 ∨ ∀ base ∈ c.regBases, addr < base ∨ base + 256 ≤ addr) :
    c.route addr width = none := by
  obtain ⟨-, -, -, hbases, -⟩ := c.legal_iff.mp hl
  by_contra hsome
  obtain ⟨⟨k, off⟩, hroute⟩ := Option.ne_none_iff_exists'.mp hsome
  obtain ⟨rfl, halign, b, hk, hlo, hhi, rfl⟩ := Config.route_some hroute
  have hb : b ∈ c.regBases := List.mem_of_getElem? hk
  have hmod := regBasesLegal_mod hbases hb
  obtain h | h | h | h := h
  · cases h
  · cases h
  · refine h (Nat.mod_eq_zero_of_dvd ?_)
    rw [← Nat.sub_add_cancel hlo]
    exact (Nat.dvd_of_mod_eq_zero halign).add ((by decide : 4 ∣ 256).trans (Nat.dvd_of_mod_eq_zero hmod))
  · exact (h b hb).elim hlo.not_gt hhi.not_ge

/-- Settles O29: neither a write nor a read is routed to a unit. -/
theorem otherAccessesRefused : Obligations.OtherAccessesRefused := by
  intro s addr width w rest hl h
  have hroute := route_eq_none hl h
  constructor <;> intro hag <;> rw [step_perform hl hag]
  · simp only [State.perform, State.regWrite, hroute]
  · simp only [State.perform, State.regRead, hroute]

/-! ## Steps on one unit -/

/-- Settles O30: the step of a register write, at an offset other than that of `CMD`. -/
theorem registerWriteReachesUnit : Obligations.RegisterWriteReachesUnit := by
  intro s k base off w rest u hl hk hu ho ha hne hag
  rw [step_regWrite hl hk hu ho ha hag, if_neg hne]

theorem step_regRead {s : State} {k base off : Nat} {rest : List Event} {u : Block} (hl : s.cfg.legal = true)
    (hk : s.cfg.regBases[k]? = some base) (hu : s.units[k]? = some u) (ho : off < 256) (ha : off % 4 = 0)
    (hag : s.agenda = .regRead (base + off) .b32 :: rest) :
    step s = .next { s with agenda := rest, sel := k, hostData := some (u.readAt s.cfg.maxRules off) } := by
  rw [step_perform hl hag]
  simp only [State.perform, State.regRead, Config.route_base hl hk ho ha, hu]

/-- Settles O38: the step replaces unit `k` and nothing else. -/
theorem resetOfUnit : Obligations.ResetOfUnit := by
  intro s k rest hl hk hag
  rw [step_perform hl hag]
  simp only [State.perform, State.resetUnit, hk, if_true]
  exact ⟨_, rfl, List.getElem?_set_self hk, fun j hj => List.getElem?_set_ne (Ne.symm hj), rfl, rfl, rfl, rfl⟩

/-! ## Fields of a word -/

/-- Bits `start` to `start + len - 1` of `n` are the number `x`. -/
def IsField (n start len x : Nat) : Prop := n / 2 ^ start % 2 ^ len = x

/-- The number with `x` in its low `len` bits and `rest` above them. -/
def under (x len rest : Nat) : Nat := x + 2 ^ len * rest

theorem isField_lowest {x len : Nat} (hx : x < 2 ^ len) (rest : Nat) : IsField (under x len rest) 0 len x := by
  rw [IsField, under, Nat.pow_zero, Nat.div_one, Nat.add_mul_mod_self_left, Nat.mod_eq_of_lt hx]

/-- A field of what stands above another field. -/
theorem IsField.above {rest start len x : Nat} (h : IsField rest start len x) {y k : Nat} (hy : y < 2 ^ k) :
    IsField (under y k rest) (start + k) len x := by
  rw [IsField, under, Nat.add_comm start, Nat.pow_add, ← Nat.div_div_eq_div_mul, Nat.add_mul_div_left _ _ (Nat.two_pow_pos k),
    Nat.div_eq_of_lt hy, Nat.zero_add]
  exact h

theorem under_under (x i y j rest : Nat) : under x i (under y j rest) = under (under x i y) (i + j) rest := by
  rw [under, under, under, under, Nat.mul_add, ← Nat.mul_assoc, ← Nat.pow_add, Nat.add_assoc]

theorem IsField.extract {n start len : Nat} {x : BitVec len} (h : IsField n start len x.toNat) (hle : start + len ≤ 32) :
    (BitVec.ofNat 32 n).extractLsb' start len = x := by
  have hsplit : 2 ^ 32 = 2 ^ start * 2 ^ (32 - start) := by
    rw [← Nat.pow_add, Nat.add_sub_cancel' ((Nat.le_add_right ..).trans hle)]
  apply BitVec.eq_of_toNat_eq
  rw [BitVec.extractLsb'_toNat, BitVec.toNat_ofNat, Nat.shiftRight_eq_div_pow, hsplit, Nat.mod_mul_right_div_self,
    Nat.mod_mod_of_dvd _ (Nat.pow_dvd_pow 2 (Nat.le_sub_of_add_le' hle))]
  exact h

theorem IsField.getLsbD {n k : Nat} {b : Bool} (h : IsField n k 1 b.toNat) (hk : k < 32) :
    (BitVec.ofNat 32 n).getLsbD k = b := by
  rw [BitVec.getLsbD_ofNat, decide_eq_true hk, Bool.true_and, Nat.testBit_eq_decide_div_mod_eq,
    show n / 2 ^ k % 2 = b.toNat from h]
  cases b <;> rfl

/-- Three bytes of a word whose fourth is 0: how `HSV_IN`, `HSV_OUT` and `RULE_A` read (R28). -/
structure ThreeBytes (w : Word) (a b c : Byte) : Prop where
  low : w.extractLsb' 0 8 = a
  middle : w.extractLsb' 8 8 = b
  high : w.extractLsb' 16 8 = c
  reserved : w.extractLsb' 24 8 = 0

theorem threeBytes (a b c : Byte) :
    ThreeBytes (BitVec.ofNat 32 (a.toNat + 2 ^ 8 * b.toNat + 2 ^ 16 * c.toNat)) a b c := by
  have hzero : IsField 0 0 8 (0 : Byte).toNat := rfl
  change ThreeBytes (BitVec.ofNat 32 (under (under (under a.toNat 8 b.toNat) (8 + 8) c.toNat) (8 + 8 + 8) 0)) a b c
  rw [← under_under, ← under_under]
  exact {
    low := (isField_lowest a.isLt _).extract (by decide)
    middle := ((isField_lowest b.isLt _).above a.isLt).extract (by decide)
    high := (((isField_lowest c.isLt _).above b.isLt).above a.isLt).extract (by decide)
    reserved := (((hzero.above c.isLt).above b.isLt).above a.isLt).extract (by decide) }

/-- `GSHIFT` as it reads (R28). -/
structure Block.GshiftFields (u : Block) : Prop where
  hue : u.gshiftWord.extractLsb' 0 8 = u.gHueShift
  reserved : u.gshiftWord.extractLsb' 8 8 = 0
  sat : u.gshiftWord.extractLsb' 16 16 = u.gSatShift

theorem Block.gshiftFields (u : Block) : u.GshiftFields := by
  have hword : u.gshiftWord =
      BitVec.ofNat 32 (under u.gHueShift.toNat 8 (under (0#8).toNat 8 (under u.gSatShift.toNat 16 0))) := by
    rw [under_under, under_under]
    rfl
  constructor <;> rw [hword]
  · exact (isField_lowest u.gHueShift.isLt _).extract (by decide)
  · exact ((isField_lowest (0#8).isLt _).above u.gHueShift.isLt).extract (by decide)
  · exact (((isField_lowest u.gSatShift.isLt _).above (0#8).isLt).above u.gHueShift.isLt).extract (by decide)

/-- A register of one field at bit 0 reads as the field, with the other bits 0 (R24). -/
structure LowField {k : Nat} (x : BitVec k) : Prop where
  low : (x.setWidth 32).extractLsb' 0 k = x
  reserved : (x.setWidth 32).extractLsb' k (32 - k) = 0

theorem lowField {k : Nat} (hk : k ≤ 32) (x : BitVec k) : LowField x := by
  have hx : (x.setWidth 32).toNat = x.toNat := BitVec.toNat_setWidth_of_le hk
  constructor <;> apply BitVec.eq_of_toNat_eq <;> rw [BitVec.extractLsb'_toNat, hx, Nat.shiftRight_eq_div_pow]
  · rw [Nat.pow_zero, Nat.div_one, Nat.mod_eq_of_lt x.isLt]
  · rw [Nat.div_eq_of_lt x.isLt]
    exact (Nat.zero_mod _).trans BitVec.toNat_zero.symm

/-- `STATUS` with its fields one above the other and three reserved bits under HIT. -/
theorem Status.word_eq (x : Status) :
    x.word = BitVec.ofNat 32 (under x.busy.toNat 1 (under x.done.toNat 1 (under x.err.toNat 1 (under x.wign.toNat 1
      (under x.errCode.toNat 4 (under x.matched.toNat 1 (under (0#3).toNat 3 (under x.hit.toNat 4 0)))))))) := by
  rw [under_under, under_under, under_under, under_under, under_under, under_under, under_under]
  rfl

/-- The fields of a `STATUS` word: four flags, the code, MATCH and, past three reserved bits, HIT (R28). -/
theorem Status.word_fields (x : Status) :
    x.word.getLsbD 0 = x.busy ∧ x.word.getLsbD 1 = x.done ∧ x.word.getLsbD 2 = x.err ∧ x.word.getLsbD 3 = x.wign ∧
      x.word.extractLsb' 4 4 = x.errCode ∧ x.word.getLsbD 8 = x.matched ∧ x.word.extractLsb' 9 3 = 0 ∧
      x.word.extractLsb' 12 4 = x.hit ∧ x.word.extractLsb' 16 16 = 0 := by
  obtain ⟨busy, done, err, wign, code, matched, hit⟩ := x
  have hb (b : Bool) : b.toNat < 2 ^ 1 := b.toNat_lt
  have flag (b : Bool) {n s l y : Nat} (h : IsField n s l y) : IsField (under b.toNat 1 n) (s + 1) l y := h.above (hb b)
  have flags {n s l y : Nat} (h : IsField n s l y) := flag busy (flag done (flag err (flag wign h)))
  have hzero : IsField 0 0 16 (0#16).toNat := rfl
  rw [Status.word_eq]
  exact ⟨(isField_lowest (hb busy) _).getLsbD (by decide), (flag busy (isField_lowest (hb done) _)).getLsbD (by decide),
    (flag busy (flag done (isField_lowest (hb err) _))).getLsbD (by decide),
    (flag busy (flag done (flag err (isField_lowest (hb wign) _)))).getLsbD (by decide),
    (flags (isField_lowest code.isLt _)).extract (by decide),
    (flags ((isField_lowest (hb matched) _).above code.isLt)).getLsbD (by decide),
    (flags ((flag matched (isField_lowest (0#3).isLt _)).above code.isLt)).extract (by decide),
    (flags ((flag matched ((isField_lowest hit.isLt _).above (0#3).isLt)).above code.isLt)).extract (by decide),
    (flags ((flag matched ((hzero.above hit.isLt).above (0#3).isLt)).above code.isLt)).extract (by decide)⟩

/-- Settles O35: `STATUS` reads as the sum of its fields, each at its place. -/
theorem statusFieldPlaces : Obligations.StatusFieldPlaces := by
  intro n u
  rw [Block.readAt_of_ofOffset (r := .status) rfl u]
  exact u.status.word_fields

theorem Block.ruleAt_of_getElem? {u : Block} {i : Nat} {r : RuleSlot} (h : u.rules[i]? = some r) : u.ruleAt i = r := by
  rw [Block.ruleAt, h, Option.getD_some]

theorem Block.readReg_ruleA {u : Block} {i : Nat} {r : RuleSlot} (h : u.rules[i]? = some r) :
    u.readReg (.ruleA i) = r.wordA :=
  congrArg RuleSlot.wordA (Block.ruleAt_of_getElem? h)

theorem Block.readReg_ruleB {u : Block} {i : Nat} {r : RuleSlot} (h : u.rules[i]? = some r) :
    u.readReg (.ruleB i) = r.satShift.setWidth 32 :=
  congrArg (fun r : RuleSlot => r.satShift.setWidth 32) (Block.ruleAt_of_getElem? h)

/-- Settles O31: the step leaves what the register reads as, and each register reads as its fields. -/
theorem registerReadReturns : Obligations.RegisterReadReturns := by
  refine ⟨fun s k base off rest u hl hk hu ho ha hag => step_regRead hl hk hu ho ha hag, fun n u => ?_⟩
  have pixIn := lowField (by decide) u.pixIn
  have pixOut := lowField (by decide) u.pixOut
  have count := lowField (by decide) u.ruleCount
  have hsvIn := threeBytes u.hsvIn.h u.hsvIn.s u.hsvIn.v
  have hsvOut := threeBytes u.hsvOut.h u.hsvOut.s u.hsvOut.v
  have gshift := u.gshiftFields
  refine ⟨rfl, rfl, pixIn.low, pixIn.reserved, hsvIn.low, hsvIn.middle, hsvIn.high, hsvIn.reserved, pixOut.low,
    pixOut.reserved, hsvOut.low, hsvOut.middle, hsvOut.high, hsvOut.reserved, rfl, rfl, gshift.hue, gshift.reserved,
    gshift.sat, count.low, count.reserved, rfl, rfl, fun i r hi hr => ?_⟩
  have wordA := threeBytes r.target r.hueShift r.radius
  have sat := lowField (by decide) r.satShift
  rw [Block.readAt_of_ofOffset (RegName.ofOffset_ruleA hi), Block.readAt_of_ofOffset (RegName.ofOffset_ruleB hi),
    Block.readReg_ruleA hr, Block.readReg_ruleB hr]
  exact ⟨wordA.low, wordA.middle, wordA.high, wordA.reserved, sat.low, sat.reserved⟩

/-! ## Reset -/

theorem Block.readReg_reset (n : Nat) (r : RegName) :
    (Block.reset n).readReg r = if r = .id then idValue else 0 := by
  have hslot : ∀ i, (Block.reset n).ruleAt i = RuleSlot.zero := Block.ruleAt_reset n 0
  cases r with
  | ruleA i => exact congrArg RuleSlot.wordA (hslot i)
  | ruleB i => exact congrArg (fun r : RuleSlot => r.satShift.setWidth 32) (hslot i)
  | _ => rfl

/-- `ID` stands at offset 0 alone (R28). -/
theorem RegName.ofOffset_eq_id_iff (n off : Nat) : RegName.ofOffset n off = some .id ↔ off = 0 := by
  constructor
  · intro h
    unfold RegName.ofOffset at h
    split_ifs at h
    · cases h
    · cases h
    · obtain ⟨before, after, hmap, -⟩ := List.lookup_eq_some_iff.mp h
      have hmem : (off, RegName.id) ∈ regMap := hmap ▸ List.mem_append_right before List.mem_cons_self
      exact (by decide : ∀ p ∈ regMap, p.2 = .id → p.1 = 0) _ hmem rfl
  · rintro rfl
    rfl

/-- Settles O37: a register but `ID` reads 0 after reset, and so does a reserved offset, which is never 0. -/
theorem resetReadsZero : Obligations.ResetReadsZero := by
  refine ⟨fun n off _ _ _ => ?_, rfl, rfl, rfl⟩
  have hid := RegName.ofOffset_eq_id_iff n off
  cases hr : RegName.ofOffset n off with
  | none =>
    rw [Block.readAt_of_reserved hr, if_neg]
    simp [← hid, hr]
  | some r =>
    rw [hr, Option.some.injEq] at hid
    rw [Block.readAt_of_ofOffset hr, Block.readReg_reset]
    exact if_congr hid rfl rfl

/-! ## Writes that read back -/

theorem and_low_mask {k : Nat} {m : Word} (hm : m.toNat = 2 ^ k - 1) (w : Word) :
    (w &&& m).toNat = w.toNat % 2 ^ k := by
  rw [BitVec.toNat_and, hm, Nat.and_two_pow_sub_one_eq_mod]

/-- The reserved bits 15:8 of `GSHIFT` cleared. -/
theorem and_gshift_mask (w : Word) : (w &&& 0xFFFF00FF).toNat = w.toNat % 2 ^ 8 + 2 ^ 16 * (w.toNat / 2 ^ 16) := by
  have hhigh : (w.toNat &&& 0xFFFF00FF) / 2 ^ 16 = w.toNat / 2 ^ 16 := by
    rw [Nat.and_div_two_pow]
    exact (Nat.and_two_pow_sub_one_eq_mod _ 16).trans (Nat.mod_eq_of_lt (Nat.div_lt_of_lt_mul w.isLt))
  have hlow : (w.toNat &&& 0xFFFF00FF) % 2 ^ 16 = w.toNat % 2 ^ 8 := by
    rw [Nat.and_mod_two_pow]
    exact (Nat.and_two_pow_sub_one_eq_mod _ 8).trans (Nat.mod_mod_of_dvd _ (by decide))
  calc (w &&& 0xFFFF00FF).toNat
      = w.toNat &&& 0xFFFF00FF := BitVec.toNat_and ..
    _ = (w.toNat &&& 0xFFFF00FF) % 2 ^ 16 + 2 ^ 16 * ((w.toNat &&& 0xFFFF00FF) / 2 ^ 16) := (Nat.mod_add_div ..).symm
    _ = _ := by rw [hhigh, hlow]

theorem extract_setWidth {k : Nat} (hk : k ≤ 32) {m : Word} (hm : m.toNat = 2 ^ k - 1) (w : Word) :
    (w.extractLsb' 0 k).setWidth 32 = w &&& m := by
  apply BitVec.eq_of_toNat_eq
  rw [and_low_mask hm, BitVec.toNat_setWidth_of_le hk, BitVec.extractLsb'_toNat, Nat.shiftRight_zero]

/-- The number that a field of a word is (R81). -/
theorem extract_toNat (w : Word) (start len : Nat) :
    (w.extractLsb' start len).toNat = w.toNat / 2 ^ start % 2 ^ len := by
  rw [BitVec.extractLsb'_toNat, Nat.shiftRight_eq_div_pow]

theorem three_bytes_of_word (w : Word) :
    BitVec.ofNat 32 ((w.extractLsb' 0 8).toNat + 2 ^ 8 * (w.extractLsb' 8 8).toNat +
      2 ^ 16 * (w.extractLsb' 16 8).toNat) = w &&& 0x00FFFFFF := by
  have h16 : w.toNat % 2 ^ 16 = w.toNat % 2 ^ 8 + 2 ^ 8 * (w.toNat / 2 ^ 8 % 2 ^ 8) := Nat.mod_mul (a := 2 ^ 8) (b := 2 ^ 8)
  have h24 : w.toNat % 2 ^ 24 = w.toNat % 2 ^ 16 + 2 ^ 16 * (w.toNat / 2 ^ 16 % 2 ^ 8) := Nat.mod_mul (a := 2 ^ 16) (b := 2 ^ 8)
  apply BitVec.eq_of_toNat_eq
  rw [and_low_mask (k := 24) rfl, BitVec.toNat_ofNat, extract_toNat, extract_toNat, extract_toNat, Nat.pow_zero,
    Nat.div_one, ← h16, ← h24]
  exact Nat.mod_eq_of_lt ((Nat.mod_lt _ (Nat.two_pow_pos 24)).trans (by decide))

theorem gshift_of_word (w : Word) :
    BitVec.ofNat 32 ((w.extractLsb' 0 8).toNat + 2 ^ 16 * (w.extractLsb' 16 16).toNat) = w &&& 0xFFFF00FF := by
  have hhigh : w.toNat / 2 ^ 16 % 2 ^ 16 = w.toNat / 2 ^ 16 := Nat.mod_eq_of_lt (Nat.div_lt_of_lt_mul w.isLt)
  apply BitVec.eq_of_toNat_eq
  rw [and_gshift_mask, BitVec.toNat_ofNat, extract_toNat, extract_toNat, Nat.pow_zero, Nat.div_one, hhigh,
    ← and_gshift_mask]
  exact Nat.mod_eq_of_lt (BitVec.isLt _)

/-- A register of an idle unit after a write, and what it then reads, by the register's own rules. -/
theorem Block.write_then_read {n off : Nat} {r : RegName} (hr : RegName.ofOffset n off = some r) {u v : Block}
    {w x : Word} (hw : u.writeReg r w = v) (hx : v.readReg r = x) :
    u.writeAt n off w = v ∧ (u.writeAt n off w).readAt n off = x := by
  rw [Block.writeAt_of_ofOffset hr, hw, Block.readAt_of_ofOffset hr]
  exact ⟨rfl, hx⟩

/-- Settles O34: each write puts the fields of the word into its register, which reads as them. -/
theorem writtenRegistersReadBack : Obligations.WrittenRegistersReadBack := by
  intro n u w _ hlen hb
  have hnot : ¬ u.status.busy = true := by simp [hb]
  have pixIn := Block.write_then_read (n := n) (r := .pixIn) (off := 0x0C) rfl (if_neg hnot)
    (extract_setWidth (k := 16) (m := 0xFFFF) (by decide) rfl w)
  have hsvIn := Block.write_then_read (n := n) (r := .hsvIn) (off := 0x10) rfl (if_neg hnot) (three_bytes_of_word w)
  have bufBase := Block.write_then_read (n := n) (r := .bufBase) (off := 0x1C) (w := w) rfl (if_neg hnot) rfl
  have bufLen := Block.write_then_read (n := n) (r := .bufLen) (off := 0x20) (w := w) rfl (if_neg hnot) rfl
  have gshift := Block.write_then_read (n := n) (r := .gshift) (off := 0x24) rfl (if_neg hnot) (gshift_of_word w)
  have ruleCount := Block.write_then_read (n := n) (r := .ruleCount) (off := 0x28) rfl (if_neg hnot)
    (extract_setWidth (k := 8) (m := 0xFF) (by decide) rfl w)
  refine ⟨pixIn.1, pixIn.2, hsvIn.1, hsvIn.2, bufBase.1, bufBase.2, bufLen.1, bufLen.2, gshift.1, gshift.2,
    ruleCount.1, ruleCount.2, fun i hi => ?_⟩
  have hi' : i < u.rules.length := hlen.symm ▸ hi
  have hslot := List.getElem?_eq_getElem hi'
  have hset (r : RuleSlot) : ({ u with rules := u.rules.set i r } : Block).ruleAt i = r :=
    Block.ruleAt_of_getElem? (List.getElem?_set_self hi')
  have ruleA := Block.write_then_read (u := u) (w := w) (RegName.ofOffset_ruleA hi) (if_neg hnot)
    ((congrArg RuleSlot.wordA (hset _)).trans (three_bytes_of_word w))
  have ruleB := Block.write_then_read (u := u) (w := w) (RegName.ofOffset_ruleB hi) (if_neg hnot)
    ((congrArg (fun r => r.satShift.setWidth 32) (hset _)).trans
      (extract_setWidth (k := 16) (m := 0xFFFF) (by decide) rfl w))
  rw [Block.ruleAt_of_getElem? hslot] at ruleA ruleB
  exact ⟨_, hslot, ruleA.1, ruleA.2, ruleB.1, ruleB.2⟩

end Sys2Proof.Machine
end

section
/-! Buffer memory and the host (20_memory.md R62, R63, R70, R71, 60_exceptions.md R212): pixels as bytes, and what host
accesses do outside and inside the active ranges. -/

namespace Sys2Proof.Machine

/-! ## Pixels as bytes -/

theorem lowerByte_eq (o : ByteOrder) (p : Pixel) :
    lowerByte o p = BitVec.ofNat 8 (if o = .little then p.toNat % 256 else p.toNat / 256) := by
  apply BitVec.eq_of_toNat_eq
  cases o <;> simp [lowerByte, BitVec.extractLsb'_toNat, Nat.shiftRight_eq_div_pow]

theorem higherByte_eq (o : ByteOrder) (p : Pixel) :
    higherByte o p = BitVec.ofNat 8 (if o = .little then p.toNat / 256 else p.toNat % 256) := by
  apply BitVec.eq_of_toNat_eq
  cases o <;> simp [higherByte, BitVec.extractLsb'_toNat, Nat.shiftRight_eq_div_pow]

/-- Settles O40: the laws of `Memory.writePixel`, with the two bytes as numbers. -/
theorem pixelWriteThenRead : Obligations.PixelWriteThenRead := fun o m a p =>
  ⟨Memory.readPixel_writePixel_same o m a p, (Memory.byte_writePixel_lower o m a p).trans (lowerByte_eq o p),
    (Memory.byte_writePixel_higher o m a p).trans (higherByte_eq o p), fun _ => Memory.byte_writePixel_other o m p⟩

/-! ## Host accesses -/

theorem State.activeUnit_eq_none_iff (s : State) (a : Nat) :
    s.activeUnit a = none ↔ ∀ u ∈ s.units, u.status.busy = true → ¬ u.inBuffer a := by
  simp only [State.activeUnit_none, ← Bool.not_eq_true, Block.activeAt_iff, not_and]

theorem State.hostByte_of_inactive {s : State} {a : Nat} (h : s.activeUnit a = none) :
    s.hostByte a = Memory.byte s.mem a := by
  rw [State.hostByte, h]

/-- A host write of a byte stores it or, in an active range, some byte, and then records HOST_RACE (R71). -/
theorem State.storeByte_spec (s : State) (a : Nat) (b : Byte) :
    ∃ b', s.storeByte a b =
        { s with mem := Memory.write s.mem a b', hostRace := s.hostRace || (s.activeUnit a).isSome } ∧
      (s.activeUnit a = none → b' = b) := by
  unfold State.storeByte
  cases h : s.activeUnit a with
  | none => exact ⟨b, by simp, fun _ => rfl⟩
  | some u => exact ⟨Config.raceByte s.draws a, by simp, nofun⟩

theorem step_memReadByte {s : State} {a : Nat} {rest : List Event} (hl : s.cfg.legal = true)
    (ha : s.cfg.memAdmit a = true) (hag : s.agenda = .memReadByte a :: rest) :
    step s = .next { s with agenda := rest, draws := s.draws + 1, hostData := some ((s.hostByte a).setWidth 32) } := by
  rw [step_perform hl hag]
  exact State.checkAccess_next (s := { s with agenda := rest }) (Config.memAdmit_lt hl ha) ha

theorem step_memRead {s : State} {a : Nat} {rest : List Event} (hl : s.cfg.legal = true)
    (ha : s.cfg.memAdmit a = true) (ha' : s.cfg.memAdmit (a + 1) = true) (hag : s.agenda = .memRead a :: rest) :
    step s = .next { s with
      agenda := rest, draws := s.draws + 1,
      hostData := some ((joinBytes s.cfg.byteOrder (s.hostByte a) (s.hostByte (a + 1))).setWidth 32) } := by
  rw [step_perform hl hag]
  exact (State.checkAccess_next (s := { s with agenda := rest }) (Config.memAdmit_lt hl ha) ha).trans
    (State.checkAccess_next (s := { s with agenda := rest }) (Config.memAdmit_lt hl ha') ha')

theorem step_memWriteByte {s : State} {a : Nat} {b : Byte} {rest : List Event} (hl : s.cfg.legal = true)
    (ha : s.cfg.memAdmit a = true) (hag : s.agenda = .memWriteByte a b :: rest) :
    ∃ b', step s = .next { s with
        agenda := rest, draws := s.draws + 1, mem := Memory.write s.mem a b',
        hostRace := s.hostRace || (s.activeUnit a).isSome } ∧
      (s.activeUnit a = none → b' = b) := by
  obtain ⟨b', hstore, hb'⟩ := State.storeByte_spec { s with agenda := rest } a b
  refine ⟨b', ?_, hb'⟩
  rw [step_perform hl hag]
  refine (State.checkAccess_next (s := { s with agenda := rest }) (Config.memAdmit_lt hl ha) ha).trans ?_
  rw [hstore]
  rfl

theorem step_memWrite {s : State} {a : Nat} {p : Pixel} {rest : List Event} (hl : s.cfg.legal = true)
    (ha : s.cfg.memAdmit a = true) (ha' : s.cfg.memAdmit (a + 1) = true) (hag : s.agenda = .memWrite a p :: rest) :
    ∃ b b', step s = .next { s with
        agenda := rest, draws := s.draws + 1, mem := Memory.write (Memory.write s.mem a b) (a + 1) b',
        hostRace := s.hostRace || (s.activeUnit a).isSome || (s.activeUnit (a + 1)).isSome } ∧
      (s.activeUnit a = none → b = lowerByte s.cfg.byteOrder p) ∧
      (s.activeUnit (a + 1) = none → b' = higherByte s.cfg.byteOrder p) := by
  obtain ⟨b, hstore, hb⟩ := State.storeByte_spec { s with agenda := rest } a (lowerByte s.cfg.byteOrder p)
  obtain ⟨b', hstore', hb'⟩ := State.storeByte_spec
    { s with agenda := rest, mem := Memory.write s.mem a b, hostRace := s.hostRace || (s.activeUnit a).isSome }
    (a + 1) (higherByte s.cfg.byteOrder p)
  refine ⟨b, b', ?_, hb, hb'⟩
  rw [step_perform hl hag]
  refine (State.checkAccess_next (s := { s with agenda := rest }) (Config.memAdmit_lt hl ha) ha).trans
    ((State.checkAccess_next (s := { s with agenda := rest }) (Config.memAdmit_lt hl ha') ha').trans ?_)
  rw [hstore]
  exact congrArg (fun t : State => Host.Outcome.next t.nextDraw) hstore'

/-! ## Outside every active range -/

/-- Settles O42: where no unit is active the host reads memory itself, and stores the bytes it writes. -/
theorem hostAccessOutsideActiveRange : Obligations.HostAccessOutsideActiveRange := by
  intro s a x p rest hl ha hout
  have hnone := (s.activeUnit_eq_none_iff a).mpr hout
  refine ⟨fun hag => ?readByte, fun hag => ?writeByte, fun ha' hout' => ?pixel⟩
  case readByte =>
    refine ⟨_, step_memReadByte hl ha hag, rfl, rfl, rfl, rfl, ?_⟩
    rw [State.hostByte_of_inactive hnone]
  case writeByte =>
    obtain ⟨b, hstep, hb⟩ := step_memWriteByte hl ha hag
    obtain rfl := hb hnone
    exact ⟨_, hstep, rfl, by simp [hnone], rfl, Memory.byte_write_same .., fun _ => Memory.byte_write_other _ _⟩
  case pixel =>
    have hnone' := (s.activeUnit_eq_none_iff (a + 1)).mpr hout'
    constructor
    · intro hag
      refine ⟨_, step_memRead hl ha ha' hag, rfl, rfl, rfl, rfl, ?_⟩
      rw [State.hostByte_of_inactive hnone, State.hostByte_of_inactive hnone', Memory.readPixel]
    · intro hag
      obtain ⟨b, b', hstep, hb, hb'⟩ := step_memWrite hl ha ha' hag
      obtain rfl := hb hnone
      obtain rfl := hb' hnone'
      exact ⟨_, hstep, rfl, by simp [hnone, hnone'], rfl, Memory.readPixel_writePixel_same ..,
        fun _ => Memory.byte_writePixel_other _ _ _⟩

/-! ## Inside an active range -/

/-- Settles O43: the byte that is active makes the write record HOST_RACE, and one that is not is stored. -/
theorem racingWriteRecorded : Obligations.RacingWriteRecorded := by
  intro s a b p u rest hl ha hu hb
  have hactive : ∀ c, u.inBuffer c → (s.activeUnit c).isSome = true := fun c hc =>
    Option.isSome_iff_ne_none.mpr (State.activeUnit_ne_none hu hb hc)
  constructor
  · intro hin hag
    obtain ⟨b', hstep, -⟩ := step_memWriteByte hl ha hag
    exact ⟨_, hstep, by simp [hactive a hin], rfl, rfl, fun _ => Memory.byte_write_other _ _⟩
  · intro ha' hin hag
    obtain ⟨b1, b2, hstep, hb1, hb2⟩ := step_memWrite hl ha ha' hag
    refine ⟨_, hstep, ?race, rfl, rfl, fun c hc hc' => ?frame, fun c hc hout => ?stored⟩
    case race =>
      obtain hin | hin := hin
      · simp [hactive a hin]
      · simp [hactive (a + 1) hin]
    case frame => exact (Memory.byte_write_other _ _ hc').trans (Memory.byte_write_other _ _ hc)
    case stored =>
      rw [← State.activeUnit_eq_none_iff] at hout
      obtain rfl | rfl := hc
      · rw [Memory.byte_writePixel_lower, ← hb1 hout]
        exact (Memory.byte_write_other _ _ (Nat.ne_of_lt (Nat.lt_succ_self c))).trans (Memory.byte_write_same ..)
      · rw [Memory.byte_writePixel_higher, ← hb2 hout]
        exact Memory.byte_write_same ..

/-- In the buffer of a busy unit that no other busy unit's buffer overlaps, that unit is the active one. -/
theorem State.activeUnit_eq_some {s : State} {k : Nat} {u : Block} (hu : s.units[k]? = some u)
    (hb : u.status.busy = true)
    (hother : ∀ i v, i ≠ k → s.units[i]? = some v → v.status.busy = true → u.overlaps v = false) {a : Nat}
    (ha : u.inBuffer a) : s.activeUnit a = some u := by
  obtain ⟨v, hv⟩ := Option.ne_none_iff_exists'.mp (State.activeUnit_ne_none (List.mem_of_getElem? hu) hb ha)
  obtain ⟨hbv, hav⟩ := (v.activeAt_iff a).mp (List.find?_some (p := fun w : Block => w.activeAt a) hv)
  obtain ⟨i, hi⟩ := List.getElem?_of_mem (List.mem_of_find?_eq_some hv)
  have hik : i = k := by
    by_contra hik
    have hoff := hother i v hik hi hbv
    rw [(Block.overlaps_iff u v).mpr ⟨a, ha, hav⟩] at hoff
    cases hoff
  subst hik
  rw [hv, ← hi, hu]

theorem Block.newPixel_eq (u : Block) (c : Config) (a : Nat) :
    u.newPixel c a = u.pixelAfter c.lutMode (Memory.readPixel c.byteOrder u.before a) := rfl

/-- Both bytes that a host reads of pixel `j` of an active range are those of one pixel, the old or the new (R71). -/
theorem State.hostBytes_of_active {s : State} {u : Block} {j : Nat} (h : s.activeUnit (u.ea j) = some u)
    (h' : s.activeUnit (u.ea j + 1) = some u) :
    joinBytes s.cfg.byteOrder (s.hostByte (u.ea j)) (s.hostByte (u.ea j + 1)) =
      if Config.readsNew s.draws (u.ea j) then u.newPixel s.cfg (u.ea j)
      else Memory.readPixel s.cfg.byteOrder u.before (u.ea j) := by
  have hlow : (u.ea j - u.bufBase.toNat) / 2 = j := by simp only [Block.ea]; omega
  have hhigh : (u.ea j + 1 - u.bufBase.toNat) / 2 = j := by simp only [Block.ea]; omega
  simp only [State.hostByte, h, h', hlow, hhigh, if_true, if_neg (Nat.succ_ne_self (u.ea j)), joinBytes_bytes]

/-- Settles O41: the draw for the pixel chooses between the two values. -/
theorem racingReadOldOrNew : Obligations.RacingReadOldOrNew := by
  intro s k j u rest hinv hu hb hj hother hag old
  have ⟨hl, _⟩ := hinv
  obtain ⟨ha, ha'⟩ := Block.admitted_running (State.inv_runInv hinv hu hb) hj
  obtain ⟨hin, hin'⟩ := u.pixel_in_buffer hj
  refine ⟨_, step_memRead hl ha ha' hag, rfl, rfl, rfl, ?_⟩
  rw [State.hostBytes_of_active (State.activeUnit_eq_some hu hb hother hin)
    (State.activeUnit_eq_some hu hb hother hin'), Block.newPixel_eq]
  split
  · exact .inr rfl
  · exact .inl rfl

end Sys2Proof.Machine
end

section
/-! From a pixel to HSV (40_conversion.md R104 to R108): value, saturation and hue of three channels as quotients, and
where the hue lies by the largest channel. -/

namespace Sys2Proof.Machine

/-! ## Expanded channels -/

/-- Neighbouring entries of the 5-bit table are at least 8 apart (R102). -/
theorem lut5_gap (m : LutMode) {x y : Nat} (hxy : x < y) (hy : y < 32) : lut5 m x + 8 ≤ lut5 m y := by
  cases m with
  | round =>
    have hstep : 255 * x + 8 * 31 ≤ 255 * y := (Nat.add_le_add_left (by decide) _).trans (Nat.mul_le_mul_left 255 hxy)
    rw [lut5_round, lut5_round, ← Nat.add_mul_div_right _ _ (by decide), Nat.add_right_comm]
    exact Nat.div_le_div_right (Nat.add_le_add_right hstep 15)
  | replicate =>
    rw [lut5_replicate (hxy.trans hy), lut5_replicate hy, Nat.add_right_comm]
    exact Nat.add_le_add (Nat.mul_le_mul_left 8 hxy) (Nat.div_le_div_right hxy.le)

/-- What the expansion of every pixel satisfies: 8-bit channels, and red and blue equal or at least 8 apart. -/
structure Rgb.Expanded (c : Rgb) : Prop where
  mx_lt : c.mx < 256
  gap_red : c.b < c.r → c.b + 8 ≤ c.r
  gap_blue : c.r < c.b → c.r + 8 ≤ c.b

theorem lut5_gap_of_lt (m : LutMode) {x y : BitVec 5} (h : lut5 m x.toNat < lut5 m y.toNat) :
    lut5 m x.toNat + 8 ≤ lut5 m y.toNat := by
  obtain hlt | heq | hgt := Nat.lt_trichotomy x.toNat y.toNat
  · exact lut5_gap m hlt y.isLt
  · exact absurd (heq ▸ h) (lt_irrefl _)
  · exact absurd ((Nat.le_add_right ..).trans (lut5_gap m hgt x.isLt)) h.not_ge

theorem expand_expanded (m : LutMode) (p : Pixel) : (expand m p).Expanded :=
  ⟨expand_mx_lt m p, lut5_gap_of_lt m, lut5_gap_of_lt m⟩

theorem Rgb.mn_le_mx (c : Rgb) : c.mn ≤ c.mx :=
  (min_le_left ..).trans (le_max_left ..)

theorem Rgb.mx_eq {c : Rgb} {v : Nat} (hr : c.r ≤ v) (hg : c.g ≤ v) (hb : c.b ≤ v)
    (h : v = c.r ∨ v = c.g ∨ v = c.b) : c.mx = v := by
  refine le_antisymm (max_le hr (max_le hg hb)) ?_
  obtain rfl | rfl | rfl := h
  · exact le_max_left ..
  · exact (le_max_left ..).trans (le_max_right ..)
  · exact (le_max_right ..).trans (le_max_right ..)

theorem Rgb.mn_eq {c : Rgb} {v : Nat} (hr : v ≤ c.r) (hg : v ≤ c.g) (hb : v ≤ c.b)
    (h : v = c.r ∨ v = c.g ∨ v = c.b) : c.mn = v := by
  refine le_antisymm ?_ (le_min hr (le_min hg hb))
  obtain rfl | rfl | rfl := h
  · exact min_le_left ..
  · exact (min_le_right ..).trans (min_le_left ..)
  · exact (min_le_right ..).trans (min_le_right ..)

theorem Rgb.mx_sub_mn_of_gray {c : Rgb} (h : c.r = c.g ∧ c.g = c.b) : c.mx - c.mn = 0 := by
  obtain ⟨hrg, hgb⟩ := h
  rw [Rgb.mx, Rgb.mn, hrg, hgb, max_self, max_self, min_self, min_self, Nat.sub_self]

/-! ## Value and saturation -/

theorem Rgb.toHsv_v {c : Rgb} (hc : c.mx < 256) : c.toHsv.v.toNat = c.mx := by
  have hv : c.toHsv.v = BitVec.ofNat 8 c.mx := by
    by_cases hd : c.mx - c.mn = 0
    · rw [Rgb.toHsv, if_pos hd]
    · rw [Rgb.toHsv, if_neg hd]
  rw [hv, BitVec.toNat_ofNat, Nat.mod_eq_of_lt hc]

theorem Rgb.toHsv_s (c : Rgb) : c.toHsv.s.toNat = (c.mx - c.mn) * 255 / c.mx := by
  have hle : (c.mx - c.mn) * 255 / c.mx ≤ 255 :=
    Nat.div_le_of_le_mul (Nat.mul_le_mul_right 255 (Nat.sub_le ..))
  by_cases hd : c.mx - c.mn = 0
  · rw [Rgb.toHsv, if_pos hd, hd, Nat.zero_mul, Nat.zero_div]
    rfl
  · rw [Rgb.toHsv, if_neg hd, BitVec.toNat_ofNat, Nat.mod_eq_of_lt (Nat.lt_succ_of_le hle)]

/-- Settles O45: V and S are their quotients, and `S = 0` means that the channels are one value. -/
theorem valueAndAchromatic : Obligations.ValueAndAchromatic := by
  intro m p c x mx d
  have hc : c.mx < 256 := expand_mx_lt m p
  have hs : x.s.toNat = d * 255 / mx := Rgb.toHsv_s c
  refine ⟨Rgb.toHsv_v hc, fun hmx => ?_, ⟨fun h0 => ?_, fun heq => ?_⟩, rgb565ToHsv_h_of_achromatic⟩
  · rw [hs, Nat.mul_comm 255 d, Nat.mul_comm _ mx, Nat.mul_comm _ mx]
    exact ⟨Nat.mul_div_le .., Nat.lt_mul_div_succ _ (Nat.pos_of_ne_zero hmx)⟩
  · obtain ⟨hgray, -⟩ := toHsv_of_s_eq_zero hc h0
    rw [hgray]
    exact ⟨rfl, rfl⟩
  · have hd : d = 0 := Rgb.mx_sub_mn_of_gray heq
    rw [hd, Nat.zero_mul, Nat.zero_div] at hs
    exact BitVec.eq_of_toNat_eq hs

/-! ## The hue -/

/-- `q` is `n` divided by `d` and truncated toward zero (R106). -/
structure TruncQuot (q n : Int) (d : Nat) : Prop where
  mul_le : q.natAbs * d ≤ n.natAbs
  lt_mul : n.natAbs < (q.natAbs + 1) * d
  nonneg : 0 ≤ n → 0 ≤ q
  nonpos : n ≤ 0 → q ≤ 0

theorem tdiv_truncQuot (n : Int) {d : Nat} (hd : 0 < d) : TruncQuot (n.tdiv d) n d := by
  have habs : (n.tdiv d).natAbs = n.natAbs / d := Int.natAbs_tdiv n d
  refine ⟨?_, ?_, fun hn => Int.tdiv_nonneg hn (Int.natCast_nonneg d), fun hn => ?_⟩
  · rw [habs]
    exact Nat.div_mul_le_self ..
  · rw [habs, Nat.mul_comm]
    exact Nat.lt_mul_div_succ _ hd
  · have hneg : 0 ≤ (-n).tdiv d := Int.tdiv_nonneg (Int.neg_nonneg_of_nonpos hn) (Int.natCast_nonneg d)
    rw [Int.neg_tdiv] at hneg
    exact Int.nonpos_of_neg_nonneg hneg

/-- The hue of three channels that are not equal, once its sector is known (R104). -/
theorem Rgb.toHsv_h {c : Rgb} (hd : 0 < c.mx - c.mn) {offset n : Int}
    (hhue : c.hue = offset + n.tdiv ((c.mx : Int) - c.mn)) :
    ∃ q, TruncQuot q n (c.mx - c.mn) ∧ (c.toHsv.h.toNat : Int) = (offset + q) % 256 := by
  rw [← Int.ofNat_sub c.mn_le_mx] at hhue
  refine ⟨_, tdiv_truncQuot n hd, ?_⟩
  rw [Rgb.toHsv, if_neg (Nat.ne_of_gt hd), BitVec.toNat_ofInt, ← hhue]
  exact Int.toNat_of_nonneg (Int.emod_nonneg _ (by decide))

/-- Red is the largest channel (R105: it is tested first). -/
theorem Rgb.hue_of_red {c : Rgb} (h : c.g ≤ c.r ∧ c.b ≤ c.r) :
    c.hue = 0 + (43 * ((c.g : Int) - c.b)).tdiv ((c.mx : Int) - c.mn) := by
  have hmx : c.mx = c.r := Rgb.mx_eq le_rfl h.1 h.2 (.inl rfl)
  rw [Rgb.hue, if_pos hmx]

/-- Green is the largest channel and red is less. -/
theorem Rgb.hue_of_green {c : Rgb} (h : c.r < c.g ∧ c.b ≤ c.g) :
    c.hue = 85 + (43 * ((c.b : Int) - c.r)).tdiv ((c.mx : Int) - c.mn) := by
  have hmx : c.mx = c.g := Rgb.mx_eq h.1.le le_rfl h.2 (.inr (.inl rfl))
  rw [Rgb.hue, if_neg (hmx ▸ h.1.ne'), if_pos hmx]

/-- Blue is the largest channel and the others are less. -/
theorem Rgb.hue_of_blue {c : Rgb} (h : c.r < c.b ∧ c.g < c.b) :
    c.hue = 171 + (43 * ((c.r : Int) - c.g)).tdiv ((c.mx : Int) - c.mn) := by
  have hmx : c.mx = c.b := Rgb.mx_eq h.1.le h.2.le le_rfl (.inr (.inr rfl))
  rw [Rgb.hue, if_neg (hmx ▸ h.1.ne'), if_neg (hmx ▸ h.2.ne')]

/-! ## Where the hue lies -/

/-- The channels of a pixel that is not gray are `lo`, `lo + w` and `lo + d`, and its hue is `k` steps away from where
it would be for `w = 0`. -/
structure Spread (d w k : Nat) : Prop where
  pos : 0 < d
  le : w ≤ d
  mul_le : k * d ≤ 43 * w
  lt_mul : 43 * w < k * d + d

theorem Spread.k_le {d w k : Nat} (h : Spread d w k) : k ≤ 43 := by
  have hlt : 43 * w < 44 * d := (Nat.mul_le_mul_left 43 h.le).trans_lt (Nat.mul_lt_mul_of_pos_right (by decide) h.pos)
  exact Nat.le_of_lt_succ (Nat.lt_of_mul_lt_mul_right (h.mul_le.trans_lt hlt))

/-- Only a middle channel equal to the largest is 43 steps away. -/
theorem Spread.k_le_of_lt {d w k : Nat} (h : Spread d w k) (hw : w < d) : k ≤ 42 := by
  have hlt : 43 * w < 43 * d := (Nat.mul_lt_mul_left (by decide)).mpr hw
  exact Nat.le_of_lt_succ (Nat.lt_of_mul_lt_mul_right (h.mul_le.trans_lt hlt))

/-- 42 steps would need a middle channel that is below the largest, by less than 6 (R108(d)). -/
theorem Spread.k_ne_of_gap {d w k : Nat} (h : Spread d w k) (hd : d < 256) (hgap : w < d → w + 8 ≤ d) : k ≠ 42 := by
  rintro rfl
  obtain ⟨-, -, hle, hlt⟩ := h
  have hw := hgap (by omega)
  clear hgap hlt
  omega

/-- The orders of three channels: `redUp` is red over green over blue, `redDown` red over blue over green, and so on with
green and blue as the largest channel. -/
inductive Order where
  | redUp | redDown | greenUp | greenDown | blueUp | blueDown

/-- The channels `lo`, `lo + w` and `lo + d` in an order. -/
def Order.rgb (lo d w : Nat) : Order → Rgb
  | .redUp => ⟨lo + d, lo + w, lo⟩
  | .redDown => ⟨lo + d, lo, lo + w⟩
  | .greenUp => ⟨lo, lo + d, lo + w⟩
  | .greenDown => ⟨lo + w, lo + d, lo⟩
  | .blueUp => ⟨lo + w, lo, lo + d⟩
  | .blueDown => ⟨lo, lo + w, lo + d⟩

/-- Red is tested before green and green before blue (R105), and red and blue are equal or at least 8 apart. -/
def Order.Fits (d w : Nat) : Order → Prop
  | .redUp | .greenUp => w ≤ d
  | .redDown => w ≤ d ∧ (w < d → w + 8 ≤ d)
  | .greenDown | .blueDown => w < d
  | .blueUp => w + 8 ≤ d

/-- The hue of an order, `k` steps from the offset of its sector. -/
def Order.HueAt (k h : Nat) : Order → Prop
  | .redUp => h = k
  | .redDown => k ≠ 42 ∧ (k = 0 ∧ h = 0 ∨ 0 < k ∧ h + k = 256)
  | .greenUp => h = 85 + k
  | .greenDown => k ≤ 42 ∧ h + k = 85
  | .blueUp => k ≤ 41 ∧ h = 171 + k
  | .blueDown => k ≤ 42 ∧ h + k = 171

theorem Order.Fits.le {o : Order} {d w : Nat} (h : o.Fits d w) : w ≤ d := by
  cases o with
  | redUp | greenUp => exact h
  | redDown => exact h.1
  | greenDown | blueDown => exact Nat.le_of_lt h
  | blueUp => exact (Nat.le_add_right ..).trans h

theorem Order.mx_mn (o : Order) (lo : Nat) {d w : Nat} (hw : w ≤ d) :
    (o.rgb lo d w).mx = lo + d ∧ (o.rgb lo d w).mn = lo := by
  have hmid := Nat.add_le_add_left hw lo
  have hlo (x : Nat) := Nat.le_add_right lo x
  cases o with
  | redUp => exact ⟨Rgb.mx_eq le_rfl hmid (hlo d) (.inl rfl), Rgb.mn_eq (hlo d) (hlo w) le_rfl (.inr (.inr rfl))⟩
  | redDown => exact ⟨Rgb.mx_eq le_rfl (hlo d) hmid (.inl rfl), Rgb.mn_eq (hlo d) le_rfl (hlo w) (.inr (.inl rfl))⟩
  | greenUp => exact ⟨Rgb.mx_eq (hlo d) le_rfl hmid (.inr (.inl rfl)), Rgb.mn_eq le_rfl (hlo d) (hlo w) (.inl rfl)⟩
  | greenDown => exact ⟨Rgb.mx_eq hmid le_rfl (hlo d) (.inr (.inl rfl)), Rgb.mn_eq (hlo w) (hlo d) le_rfl (.inr (.inr rfl))⟩
  | blueUp => exact ⟨Rgb.mx_eq hmid (hlo d) le_rfl (.inr (.inr rfl)), Rgb.mn_eq (hlo w) le_rfl (hlo d) (.inr (.inl rfl))⟩
  | blueDown => exact ⟨Rgb.mx_eq (hlo d) hmid le_rfl (.inr (.inr rfl)), Rgb.mn_eq le_rfl (hlo w) (hlo d) (.inl rfl)⟩

/-- The steps in the sector of a hue, from the sector's formula. -/
theorem Order.exists_spread (o : Order) {lo d w : Nat} (hd : 0 < d) (hw : w ≤ d) {offset n : Int}
    (hhue : (o.rgb lo d w).hue = offset + n.tdiv (((o.rgb lo d w).mx : Int) - (o.rgb lo d w).mn))
    (hn : n.natAbs = 43 * w) :
    ∃ q : Int, Spread d w q.natAbs ∧ (0 ≤ n → 0 ≤ q) ∧ (n ≤ 0 → q ≤ 0) ∧
      ((o.rgb lo d w).toHsv.h.toNat : Int) = (offset + q) % 256 := by
  have hdiff : (o.rgb lo d w).mx - (o.rgb lo d w).mn = d := by
    obtain ⟨hmx, hmn⟩ := o.mx_mn lo hw
    rw [hmx, hmn, Nat.add_sub_cancel_left]
  obtain ⟨q, ⟨hle, hlt, hnonneg, hnonpos⟩, hh⟩ := Rgb.toHsv_h (by rwa [hdiff]) hhue
  rw [hdiff, hn] at hle hlt
  rw [Nat.add_mul, Nat.one_mul] at hlt
  exact ⟨q, ⟨hd, hw, hle, hlt⟩, hnonneg, hnonpos, hh⟩

/-- Upward from the offset of a sector: the middle channel is the one that the formula adds. -/
theorem Order.exists_spread_up (o : Order) {lo d w : Nat} (hd : 0 < d) (hw : w ≤ d) {offset : Nat}
    (hoffset : offset < 213) (hhue : (o.rgb lo d w).hue =
      offset + (43 * (((lo + w : Nat) : Int) - lo)).tdiv (((o.rgb lo d w).mx : Int) - (o.rgb lo d w).mn)) :
    ∃ k, Spread d w k ∧ (o.rgb lo d w).toHsv.h.toNat = offset + k := by
  rw [Int.natCast_add, add_sub_cancel_left] at hhue
  obtain ⟨q, hs, hpos, -, hh⟩ := o.exists_spread hd hw hhue rfl
  obtain ⟨k, rfl⟩ := Int.eq_ofNat_of_zero_le (hpos (Int.natCast_nonneg (43 * w)))
  have hlt : offset + k < 256 := Nat.add_lt_add_of_lt_of_le hoffset hs.k_le
  refine ⟨k, hs, Int.ofNat_inj.mp (hh.trans ?_)⟩
  exact Int.emod_eq_of_lt (Int.natCast_nonneg (offset + k)) (Int.ofNat_lt.mpr hlt)

/-- Downward from the offset of a sector: the middle channel is the one that the formula subtracts. -/
theorem Order.exists_spread_down (o : Order) {lo d w : Nat} (hd : 0 < d) (hw : w ≤ d) {offset : Int}
    (hhue : (o.rgb lo d w).hue =
      offset + (43 * ((lo : Int) - (lo + w : Nat))).tdiv (((o.rgb lo d w).mx : Int) - (o.rgb lo d w).mn)) :
    ∃ k : Nat, Spread d w k ∧ ((o.rgb lo d w).toHsv.h.toNat : Int) = (offset - k) % 256 := by
  rw [Int.natCast_add, sub_add_cancel_left, Int.mul_neg] at hhue
  obtain ⟨q, hs, -, hneg, hh⟩ := o.exists_spread hd hw hhue (Int.natAbs_neg _)
  obtain ⟨k, rfl⟩ := Int.exists_eq_neg_ofNat (hneg (Int.neg_nonpos_of_nonneg (Int.natCast_nonneg (43 * w))))
  rw [Int.natAbs_neg] at hs
  exact ⟨k, hs, hh⟩

theorem add_eq_of_down {h k offset : Nat} (hh : (h : Int) = (offset - k) % 256) (hk : k ≤ offset)
    (ho : offset < k + 256) : h + k = offset := by
  obtain ⟨j, rfl⟩ := Nat.exists_eq_add_of_le hk
  rw [Int.natCast_add, add_sub_cancel_left] at hh
  have hmod : h = j % 256 := Int.ofNat_inj.mp (hh.trans (Int.natCast_emod j 256).symm)
  rw [hmod, Nat.mod_eq_of_lt (Nat.lt_of_add_lt_add_left ho), Nat.add_comm]

/-- The hue of every order, placed by the steps of its sector (R104 to R106, R108(d)). -/
theorem Order.exists_hueAt (o : Order) {lo d w : Nat} (hd : 0 < d) (hfit : o.Fits d w) (hv : lo + d < 256) :
    ∃ k, Spread d w k ∧ o.HueAt k (o.rgb lo d w).toHsv.h.toNat := by
  have hw := hfit.le
  have hmid := Nat.add_le_add_left hw lo
  have hlo (x : Nat) := Nat.le_add_right lo x
  have hlt : lo < lo + d := Nat.lt_add_of_pos_right hd
  have hd256 : d < 256 := (Nat.le_add_left d lo).trans_lt hv
  cases o with
  | redUp =>
    obtain ⟨k, hs, hh⟩ := exists_spread_up .redUp hd hw (by decide) (Rgb.hue_of_red ⟨hmid, hlo d⟩)
    exact ⟨k, hs, hh.trans (Nat.zero_add k)⟩
  | greenUp =>
    obtain ⟨k, hs, hh⟩ := exists_spread_up .greenUp hd hw (by decide) (Rgb.hue_of_green ⟨hlt, hmid⟩)
    exact ⟨k, hs, hh⟩
  | blueUp =>
    have hwd : w < d := (Nat.lt_add_of_pos_right (by decide)).trans_le hfit
    obtain ⟨k, hs, hh⟩ := exists_spread_up .blueUp hd hw (by decide) (Rgb.hue_of_blue ⟨Nat.add_lt_add_left hwd lo, hlt⟩)
    have hne := hs.k_ne_of_gap hd256 fun _ => hfit
    exact ⟨k, hs, Nat.le_of_lt_succ (Nat.lt_of_le_of_ne (hs.k_le_of_lt hwd) hne), hh⟩
  | redDown =>
    obtain ⟨k, hs, hh⟩ := exists_spread_down .redDown hd hw (Rgb.hue_of_red ⟨hlo d, hmid⟩)
    refine ⟨k, hs, hs.k_ne_of_gap hd256 hfit.2, ?_⟩
    obtain rfl | hpos := Nat.eq_zero_or_pos k
    · exact .inl ⟨rfl, Int.ofNat_inj.mp hh⟩
    · refine .inr ⟨hpos, add_eq_of_down ?_ (hs.k_le.trans (by decide)) (Nat.lt_add_of_pos_left hpos)⟩
      rw [hh, ← Int.add_emod_left, ← Int.add_sub_assoc]
      rfl
  | greenDown =>
    obtain ⟨k, hs, hh⟩ := exists_spread_down .greenDown hd hw (Rgb.hue_of_green ⟨Nat.add_lt_add_left hfit lo, hlo d⟩)
    have hk := hs.k_le_of_lt hfit
    exact ⟨k, hs, hk, add_eq_of_down hh (hk.trans (by decide)) (Nat.lt_add_left k (by decide))⟩
  | blueDown =>
    obtain ⟨k, hs, hh⟩ := exists_spread_down .blueDown hd hw (Rgb.hue_of_blue ⟨hlt, Nat.add_lt_add_left hfit lo⟩)
    have hk := hs.k_le_of_lt hfit
    exact ⟨k, hs, hk, add_eq_of_down hh (hk.trans (by decide)) (Nat.lt_add_left k (by decide))⟩

/-- The channels of a pixel that is not gray stand in one of the orders. -/
theorem Rgb.exists_order {c : Rgb} (hc : c.Expanded) (hne : ¬(c.r = c.g ∧ c.g = c.b)) :
    ∃ (o : Order) (lo d w : Nat), 0 < d ∧ o.Fits d w ∧ c = o.rgb lo d w := by
  obtain ⟨r, g, b⟩ := c
  obtain ⟨-, hred, hblue⟩ := hc
  have hgap {lo w d : Nat} (h : lo + w < lo + d → lo + w + 8 ≤ lo + d) (hwd : w < d) : w + 8 ≤ d :=
    Nat.le_of_add_le_add_left (Nat.add_assoc lo w 8 ▸ h (Nat.add_lt_add_left hwd lo))
  obtain hgr | hrg := le_or_gt g r
  · obtain hbg | hgb := le_or_gt b g
    · clear hgap hred hblue
      obtain ⟨w, rfl⟩ := Nat.exists_eq_add_of_le hbg
      obtain ⟨d, rfl⟩ := Nat.exists_eq_add_of_le (hbg.trans hgr)
      have hw : w ≤ d := Nat.le_of_add_le_add_left hgr
      refine ⟨.redUp, b, d, w, Nat.pos_of_ne_zero fun h0 => hne ?_, hw, rfl⟩
      subst h0
      obtain rfl := Nat.le_zero.mp hw
      exact ⟨rfl, rfl⟩
    · clear hne
      obtain ⟨w, rfl⟩ := Nat.exists_eq_add_of_le hgb.le
      have hw : 0 < w := Nat.lt_add_right_iff_pos.mp hgb
      obtain ⟨d, rfl⟩ := Nat.exists_eq_add_of_le hgr
      obtain hbr | hrb := le_or_gt w d
      · exact ⟨.redDown, g, d, w, hw.trans_le hbr, ⟨hbr, hgap hred⟩, rfl⟩
      · exact ⟨.blueUp, g, w, d, hw, hgap hblue hrb, rfl⟩
  · clear hgap hne hred hblue
    obtain ⟨d, rfl⟩ := Nat.exists_eq_add_of_le hrg.le
    have hd : 0 < d := Nat.lt_add_right_iff_pos.mp hrg
    obtain hrb | hbr := le_or_gt r b
    · obtain ⟨w, rfl⟩ := Nat.exists_eq_add_of_le hrb
      obtain hbg | hgb := le_or_gt w d
      · exact ⟨.greenUp, r, d, w, hd, hbg, rfl⟩
      · exact ⟨.blueDown, r, w, d, hd.trans hgb, hgb, rfl⟩
    · obtain ⟨w, rfl⟩ := Nat.exists_eq_add_of_le hbr.le
      rw [Nat.add_assoc]
      exact ⟨.greenDown, b, w + d, w, Nat.add_pos_right w hd, Nat.lt_add_of_pos_right hd, rfl⟩

/-- The hue of a pixel that is not gray is placed by the order of its channels. -/
theorem Rgb.exists_hueAt {c : Rgb} (hc : c.Expanded) (hne : ¬(c.r = c.g ∧ c.g = c.b)) :
    ∃ (o : Order) (lo d w k : Nat), o.Fits d w ∧ c = o.rgb lo d w ∧ Spread d w k ∧ o.HueAt k c.toHsv.h.toNat := by
  obtain ⟨o, lo, d, w, hd, hfit, rfl⟩ := Rgb.exists_order hc hne
  obtain ⟨hmx, -⟩ := o.mx_mn lo hfit.le
  obtain ⟨k, hs, hh⟩ := o.exists_hueAt hd hfit (hmx ▸ hc.mx_lt)
  exact ⟨o, lo, d, w, k, hfit, rfl, hs, hh⟩

theorem le_of_down {h k offset : Nat} (hh : h + k = offset) {m : Nat} (hk : k + m ≤ offset) : m ≤ h :=
  Nat.le_of_add_le_add_right (Nat.add_comm k m ▸ hk.trans_eq hh.symm)

/-- Where red is largest the hue `h` is 0 to 43 or 213 to 255 and not 214, where green is 43 to 128, where blue is 129
to 212 (R108(d)). -/
structure Rgb.HueRange (c : Rgb) (h : Nat) : Prop where
  red : c.g ≤ c.r ∧ c.b ≤ c.r → 213 ≤ h ∨ h ≤ 43
  green : c.r < c.g ∧ c.b ≤ c.g → 43 ≤ h ∧ h ≤ 128
  blue : c.r < c.b ∧ c.g < c.b → 129 ≤ h ∧ h ≤ 212
  ne : h ≠ 214

theorem Rgb.HueRange.of_red {c : Rgb} {h : Nat} (hmax : c.g ≤ c.r ∧ c.b ≤ c.r) (hh : 213 ≤ h ∨ h ≤ 43)
    (hne : h ≠ 214) : c.HueRange h :=
  ⟨fun _ => hh, fun hg => absurd hg.1 hmax.1.not_gt, fun hb => absurd hb.1 hmax.2.not_gt, hne⟩

theorem Rgb.HueRange.of_green {c : Rgb} {h : Nat} (hmax : c.r < c.g ∧ c.b ≤ c.g) (hh : 43 ≤ h ∧ h ≤ 128) :
    c.HueRange h :=
  ⟨fun hr => absurd hr.1 hmax.1.not_ge, fun _ => hh, fun hb => absurd hb.2 hmax.2.not_gt,
    ne_of_lt (hh.2.trans_lt (by decide))⟩

theorem Rgb.HueRange.of_blue {c : Rgb} {h : Nat} (hmax : c.r < c.b ∧ c.g < c.b) (hh : 129 ≤ h ∧ h ≤ 212) :
    c.HueRange h :=
  ⟨fun hr => absurd hr.2 hmax.1.not_ge, fun hg => absurd hg.2 hmax.2.not_ge, fun _ => hh,
    ne_of_lt (hh.2.trans_lt (by decide))⟩

theorem Order.hueRange {o : Order} {lo d w k h : Nat} (hfit : o.Fits d w) (hs : Spread d w k) (hh : o.HueAt k h) :
    (o.rgb lo d w).HueRange h := by
  have hk := hs.k_le
  have hd : lo < lo + d := Nat.lt_add_of_pos_right hs.pos
  have hw : lo + w ≤ lo + d := Nat.add_le_add_left hfit.le lo
  have hdown {offset : Nat} (h' : h + k = offset) : h ≤ offset := (Nat.le_add_right ..).trans_eq h'
  cases o with
  | redUp =>
    obtain rfl : h = k := hh
    exact .of_red ⟨hw, hd.le⟩ (.inr hk) (ne_of_lt (hk.trans_lt (by decide)))
  | redDown =>
    obtain ⟨hne, ⟨-, rfl⟩ | ⟨-, hh⟩⟩ := hh
    · exact .of_red ⟨hd.le, hw⟩ (.inr (by decide)) (by decide)
    · refine .of_red ⟨hd.le, hw⟩ (.inl (le_of_down hh (Nat.add_le_add_right hk 213))) fun h214 => hne ?_
      rw [h214] at hh
      exact Nat.add_left_cancel hh
  | greenUp =>
    obtain rfl : h = 85 + k := hh
    exact .of_green ⟨hd, hw⟩ ⟨Nat.le_add_right_of_le (by decide), Nat.add_le_add_left hk 85⟩
  | greenDown =>
    obtain ⟨hk, hh⟩ := hh
    exact .of_green ⟨Nat.add_lt_add_left hfit lo, hd.le⟩ ⟨le_of_down hh (Nat.add_le_add_right hk 43),
      (hdown hh).trans (by decide)⟩
  | blueUp =>
    obtain ⟨hk, rfl⟩ := hh
    have hwd : w < d := (Nat.lt_add_of_pos_right (by decide)).trans_le hfit
    exact .of_blue ⟨Nat.add_lt_add_left hwd lo, hd⟩ ⟨Nat.le_add_right_of_le (by decide), Nat.add_le_add_left hk 171⟩
  | blueDown =>
    obtain ⟨hk, hh⟩ := hh
    exact .of_blue ⟨hd, Nat.add_lt_add_left hfit lo⟩ ⟨le_of_down hh (Nat.add_le_add_right hk 129),
      (hdown hh).trans (by decide)⟩

/-- The hue of every expanded pixel lies where its largest channel says; that of a gray one is 0. -/
theorem Rgb.Expanded.hueRange {c : Rgb} (hc : c.Expanded) : c.HueRange c.toHsv.h.toNat := by
  by_cases hgray : c.r = c.g ∧ c.g = c.b
  · have hh : c.toHsv.h.toNat = 0 := by rw [Rgb.toHsv, if_pos (Rgb.mx_sub_mn_of_gray hgray)]; rfl
    rw [hh]
    exact .of_red ⟨hgray.1.ge, (hgray.1.trans hgray.2).ge⟩ (.inr (by decide)) (by decide)
  · obtain ⟨o, lo, d, w, k, hfit, hcs, hs, hh⟩ := Rgb.exists_hueAt hc hgray
    have hrange := Order.hueRange (lo := lo) hfit hs hh
    rwa [← hcs] at hrange

/-- Settles O46: the quotient of each sector's formula, and the range in which its order puts the hue. -/
theorem hueSectors : Obligations.HueSectors := by
  intro m p c h d hue
  obtain ⟨hred, hgreen, hblue, hne⟩ : c.HueRange h := (expand_expanded m p).hueRange
  have hof {offset n : Int} (hd : 0 < d) (hhue : c.hue = offset + n.tdiv ((c.mx : Int) - c.mn)) : hue offset n := by
    obtain ⟨q, ⟨hle, hlt, hnonneg, hnonpos⟩, hh⟩ := Rgb.toHsv_h hd hhue
    exact ⟨q, hle, hlt, hnonneg, hnonpos, hh⟩
  have hdiff (hmax : c.r < c.g ∨ c.r < c.b) : 0 < d := Nat.sub_pos_of_lt (lt_of_le_of_lt (min_le_left ..)
    (lt_max_iff.mpr (.inr (lt_max_iff.mpr hmax))))
  exact ⟨fun hmax => ⟨hred hmax, fun hd => hof (Nat.pos_of_ne_zero hd) (Rgb.hue_of_red hmax)⟩,
    fun hmax => ⟨(hgreen hmax).1, (hgreen hmax).2, hof (hdiff (.inl hmax.1)) (Rgb.hue_of_green hmax)⟩,
    fun hmax => ⟨(hblue hmax).1, (hblue hmax).2, hof (hdiff (.inr hmax.1)) (Rgb.hue_of_blue hmax)⟩, hne⟩

end Sys2Proof.Machine
end

section
/-! The round trip (40_conversion.md R121): converting a pixel to HSV and back brings the largest channel back exactly,
and the two others within what the truncations and the 43 hue steps of a sector leave open. -/

namespace Sys2Proof.Machine

/-! ## The channels that come back -/

/-- Two channels are at most `n` apart. -/
def Near (n a b : Nat) : Prop := a ≤ b + n ∧ b ≤ a + n

theorem Near.refl (n a : Nat) : Near n a a := ⟨Nat.le_add_right .., Nat.le_add_right ..⟩

theorem Near.mono {m n a b : Nat} (h : Near m a b) (hmn : m ≤ n) : Near n a b :=
  ⟨h.1.trans (Nat.add_le_add_left hmn b), h.2.trans (Nat.add_le_add_left hmn a)⟩

/-- Channels at most two units apart differ by at most 2 where the units alone are kept. -/
theorem Near.field {k a b : Nat} (hk : 0 < k) (h : Near (2 * k) a b) : Near 2 (a / k) (b / k) := by
  obtain ⟨hab, hba⟩ := h
  rw [Nat.mul_comm] at hab hba
  have hdiv (x : Nat) : (x + k * 2) / k = x / k + 2 := Nat.add_mul_div_left x 2 hk
  exact ⟨(Nat.div_le_div_right hab).trans_eq (hdiv b), (Nat.div_le_div_right hba).trans_eq (hdiv a)⟩

theorem Near.natAbs_le {n a b : Nat} (h : Near n a b) : ((a : Int) - b).natAbs ≤ n := by
  obtain ⟨hab, hba⟩ := h
  omega

/-- S of channels between `lo` and `lo + d` (R104). -/
def satOf (lo d : Nat) : Nat := d * 255 / (lo + d)

theorem satOf_le (lo d : Nat) : satOf lo d ≤ 255 :=
  Nat.div_le_of_le_mul (Nat.mul_le_mul_right 255 (Nat.le_add_left ..))

/-- The largest channel `lo + d` scaled down by its saturation times `ρ / 256`: the form of `p`, `q` and `t` (R115). -/
def scaledBack (lo d ρ : Nat) : Nat := dimmed (lo + d) (satOf lo d * ρ / 256)

theorem dimmed_satOf (lo d : Nat) : dimmed (lo + d) (satOf lo d) = scaledBack lo d 256 := by
  rw [scaledBack, Nat.mul_div_cancel _ (by decide)]

/-- Dimming is `v * (255 - k) / 256` with one truncation. -/
theorem dimmed_bounds (v : Nat) {k : Nat} (hk : k ≤ 255) :
    256 * dimmed v k + v * k ≤ 255 * v ∧ 255 * v ≤ 256 * dimmed v k + v * k + 255 := by
  have hmul : v * (255 - k) + v * k = 255 * v := by rw [← Nat.mul_add, Nat.sub_add_cancel hk, Nat.mul_comm]
  rw [← hmul, dimmed]
  generalize v * (255 - k) = n
  clear hmul hk
  exact ⟨Nat.add_le_add_right (Nat.mul_div_le ..) _, by omega⟩

/-- A part of the saturation, up to its two truncations. -/
theorem satOf_mul_bounds {lo d ρ : Nat} (hd : 0 < d) (hρ : ρ ≤ 256) :
    256 * ((lo + d) * (satOf lo d * ρ / 256)) ≤ 255 * (d * ρ) ∧
      255 * (d * ρ) ≤ 256 * ((lo + d) * (satOf lo d * ρ / 256)) + 511 * (lo + d) := by
  have hs : (lo + d) * satOf lo d ≤ d * 255 := Nat.mul_div_le ..
  have hs' : d * 255 ≤ (lo + d) * satOf lo d + (lo + d) := (Nat.lt_mul_div_succ _ (Nat.add_pos_right lo hd)).le
  generalize satOf lo d = s at hs hs' ⊢
  generalize lo + d = v at hs hs' ⊢
  have hx : 256 * (s * ρ / 256) ≤ s * ρ := Nat.mul_div_le ..
  have hx' : s * ρ ≤ 256 * (s * ρ / 256) + 255 := Nat.le_of_lt_succ (Nat.lt_mul_div_succ _ (by decide : 0 < 256))
  generalize s * ρ / 256 = x at hx hx' ⊢
  constructor
  · calc 256 * (v * x) = v * (256 * x) := Nat.mul_left_comm ..
      _ ≤ v * (s * ρ) := Nat.mul_le_mul_left v hx
      _ = v * s * ρ := (Nat.mul_assoc ..).symm
      _ ≤ d * 255 * ρ := Nat.mul_le_mul_right ρ hs
      _ = 255 * (d * ρ) := by rw [Nat.mul_comm d 255, Nat.mul_assoc]
  · calc 255 * (d * ρ) = d * 255 * ρ := by rw [Nat.mul_comm d 255, Nat.mul_assoc]
      _ ≤ (v * s + v) * ρ := Nat.mul_le_mul_right ρ hs'
      _ = v * (s * ρ) + v * ρ := by rw [Nat.add_mul, Nat.mul_assoc]
      _ ≤ v * (256 * x + 255) + v * 256 := Nat.add_le_add (Nat.mul_le_mul_left v hx') (Nat.mul_le_mul_left v hρ)
      _ = 256 * (v * x) + 511 * v := by ring

/-- What comes back from `ρ` is `lo + d` less `d * ρ / 256`, up to the truncations. -/
theorem scaledBack_bounds {lo d ρ : Nat} (hd : 0 < d) (hρ : ρ ≤ 256) :
    65536 * scaledBack lo d ρ + 255 * (d * ρ) ≤ 65791 * (lo + d) ∧
      65280 * (lo + d) ≤ 65536 * scaledBack lo d ρ + 65280 + 255 * (d * ρ) := by
  have hk : satOf lo d * ρ / 256 ≤ 255 := Nat.div_le_of_le_mul ((Nat.mul_le_mul (satOf_le lo d) hρ).trans (by decide))
  obtain ⟨hx, hx'⟩ := satOf_mul_bounds (lo := lo) hd hρ
  obtain ⟨hy, hy'⟩ := dimmed_bounds (lo + d) hk
  change 256 * scaledBack lo d ρ + _ ≤ _ at hy
  change _ ≤ 256 * scaledBack lo d ρ + _ + 255 at hy'
  generalize scaledBack lo d ρ = y at hy hy' ⊢
  generalize (lo + d) * (satOf lo d * ρ / 256) = n at hx hx' hy hy'
  generalize lo + d = v at hx' hy hy' ⊢
  constructor
  · calc 65536 * y + 255 * (d * ρ) ≤ 256 * (256 * y) + (256 * n + 511 * v) :=
          Nat.add_le_add (Nat.mul_assoc 256 256 y).le hx'
      _ = 256 * (256 * y + n) + 511 * v := by rw [Nat.mul_add, Nat.add_assoc]
      _ ≤ 256 * (255 * v) + 511 * v := Nat.add_le_add_right (Nat.mul_le_mul_left 256 hy) _
      _ = 65791 * v := by rw [← Nat.mul_assoc, ← Nat.add_mul]
  · calc 65280 * v = 256 * (255 * v) := Nat.mul_assoc 256 255 v
      _ ≤ 256 * (256 * y + n + 255) := Nat.mul_le_mul_left 256 hy'
      _ = 65536 * y + 65280 + 256 * n := by rw [Nat.mul_add, Nat.mul_add, ← Nat.mul_assoc, Nat.add_right_comm]
      _ ≤ 65536 * y + 65280 + 255 * (d * ρ) := Nat.add_le_add_left hx _

/-- `ρ` and the hue's steps together. -/
theorem mul_add_steps {d k ρ C : Nat} (hC : ρ + 6 * k = C) : 255 * (d * ρ) + 1530 * (k * d) = 255 * (C * d) := by
  rw [← hC, Nat.add_mul, Nat.mul_add, Nat.mul_comm d, Nat.mul_assoc 6, ← Nat.mul_assoc 255 6]

theorem Spread.le_scaledBack_add {lo d w k ρ C e : Nat} (hs : Spread d w k) (hv : lo + d < 256) (hρ : ρ ≤ 256)
    (hC : ρ + 6 * k = C) (hhi : C ≤ 256 + e) : lo + w ≤ scaledBack lo d ρ + (8 + e) := by
  obtain ⟨hd, -, -, hlt⟩ := hs
  obtain ⟨-, hbound⟩ := scaledBack_bounds (lo := lo) hd hρ
  have hsteps := mul_add_steps (d := d) hC
  have he : C * d ≤ 256 * d + e * 255 := (Nat.mul_le_mul_right d hhi).trans (by
    rw [Nat.add_mul]
    exact Nat.add_le_add_left (Nat.mul_le_mul_left e (Nat.le_of_lt_succ ((Nat.le_add_left d lo).trans_lt hv))) _)
  replace hbound := (Nat.add_le_add_right hbound (1530 * (k * d))).trans_eq (Nat.add_assoc ..)
  rw [hsteps] at hbound
  replace hbound := hbound.trans (Nat.add_le_add_left (Nat.mul_le_mul_left 255 he) _)
  clear hd hρ hC hhi hsteps he
  omega

theorem Spread.scaledBack_le {lo d w k ρ C e : Nat} (hs : Spread d w k) (hv : lo + d < 256) (hρ : ρ ≤ 256)
    (hC : ρ + 6 * k = C) (hlo : 252 ≤ C + e) : scaledBack lo d ρ ≤ lo + w + (8 + e) := by
  obtain ⟨hd, hw, hle, -⟩ := hs
  obtain ⟨hbound, -⟩ := scaledBack_bounds (lo := lo) hd hρ
  have hsteps := mul_add_steps (d := d) hC
  have he : 252 * d ≤ C * d + e * 255 := (Nat.mul_le_mul_right d hlo).trans (by
    rw [Nat.add_mul]
    exact Nat.add_le_add_left (Nat.mul_le_mul_left e (Nat.le_of_lt_succ ((Nat.le_add_left d lo).trans_lt hv))) _)
  replace hbound := (Nat.add_assoc ..).symm.trans_le (Nat.add_le_add_right hbound (1530 * (k * d)))
  rw [hsteps] at hbound
  replace he := (Nat.mul_le_mul_left 255 he).trans_eq (Nat.mul_add ..)
  replace hbound := (Nat.add_le_add_left he _).trans ((Nat.add_assoc ..).symm.trans_le (Nat.add_le_add_right hbound _))
  clear hd hρ hC hlo hsteps he
  omega

/-- The middle channel comes back from `ρ` within 8 and `e` where `ρ` and the hue's steps fill a sector up to `e`. -/
theorem Spread.near {lo d w k ρ C e : Nat} (hs : Spread d w k) (hv : lo + d < 256) (hρ : ρ ≤ 256)
    (hC : ρ + 6 * k = C) (hlo : 252 ≤ C + e) (hhi : C ≤ 256 + e) : Near (8 + e) (lo + w) (scaledBack lo d ρ) :=
  ⟨hs.le_scaledBack_add hv hρ hC hhi, hs.scaledBack_le hv hρ hC hlo⟩

theorem Spread.zero {d : Nat} (hd : 0 < d) : Spread d 0 0 :=
  ⟨hd, Nat.zero_le d, Nat.le_of_eq (Nat.zero_mul d), by rwa [Nat.zero_mul, Nat.zero_add]⟩

/-- The smallest channel comes back from a whole sector. -/
theorem Spread.near_low {lo d w k ρ : Nat} (hs : Spread d w k) (hv : lo + d < 256) (hlo : 252 ≤ ρ) (hhi : ρ ≤ 256) :
    Near 8 lo (scaledBack lo d ρ) :=
  (Spread.zero hs.pos).near (e := 0) hv hhi rfl hlo hhi

/-- The largest channel comes back from less than a 25th of a sector. -/
theorem near_high {lo d ρ : Nat} (hv : lo + d < 256) (hρ : ρ ≤ 9) : Near 9 (lo + d) (scaledBack lo d ρ) := by
  have hk : satOf lo d * ρ / 256 ≤ 8 := (Nat.div_le_div_right (Nat.mul_le_mul (satOf_le lo d) hρ)).trans (by decide)
  obtain ⟨hle, hge⟩ := dimmed_bounds (lo + d) (hk.trans (by decide))
  have hmul := Nat.mul_le_mul_left (lo + d) hk
  rw [scaledBack]
  clear hk hρ
  constructor
  · clear hle
    omega
  · clear hge hmul
    omega

/-! ## The six orders of the channels -/

/-- The sector table (R118) for channels between `lo` and `lo + d`. -/
theorem sectorRgb_satOf (lo d h : Nat) :
    let p := scaledBack lo d 256
    let q := scaledBack lo d (h % 43 * 6)
    let t := scaledBack lo d (255 - h % 43 * 6)
    let c := sectorRgb h (satOf lo d) (lo + d)
    (h / 43 = 0 → c = ⟨lo + d, t, p⟩) ∧ (h / 43 = 1 → c = ⟨q, lo + d, p⟩) ∧ (h / 43 = 2 → c = ⟨p, lo + d, t⟩) ∧
      (h / 43 = 3 → c = ⟨p, q, lo + d⟩) ∧ (h / 43 = 4 → c = ⟨t, p, lo + d⟩) ∧ (h / 43 = 5 → c = ⟨lo + d, p, q⟩) := by
  rw [← dimmed_satOf]
  exact sectorRgb_of_region h (satOf lo d) (lo + d)

/-- Channels of which the pixels differ by at most 2 in each field: two units of red, green and blue. -/
structure Rgb.Close (c c' : Rgb) : Prop where
  r : Near 16 c.r c'.r
  g : Near 8 c.g c'.g
  b : Near 16 c.b c'.b

/-- A hue 43 steps off belongs to two channels that are largest. -/
theorem Spread.eq_of_k_eq {d w : Nat} (hs : Spread d w 43) : w = d :=
  Nat.le_antisymm hs.le (Nat.le_of_mul_le_mul_left hs.mul_le (by decide))

/-- Below the last hue of a stretch from the start of a region, by `k`. -/
theorem hue_of_down {r n k h : Nat} (hh : h + k = 43 * r + n) (hk : k ≤ n) (hn : n < 43) :
    h / 43 = r ∧ h % 43 + k = n := by
  obtain ⟨j, rfl⟩ := Nat.exists_eq_add_of_le hk
  obtain rfl : h = 43 * r + j := Nat.add_right_cancel (hh.trans (by rw [Nat.add_comm k, Nat.add_assoc]))
  have hj : j < 43 := (Nat.le_add_left j k).trans_lt hn
  rw [Nat.mul_add_div (by decide), Nat.mul_add_mod, Nat.div_eq_of_lt hj, Nat.mod_eq_of_lt hj]
  exact ⟨rfl, Nat.add_comm j k⟩

theorem hue_of_up {r j h : Nat} (hh : h = 43 * r + j) (hj : j < 43) : h / 43 = r ∧ h % 43 = j :=
  hue_of_down (k := 0) hh (Nat.zero_le j) hj

/-- The hue falls to the end of its region: what the region's `q` is of. -/
theorem Spread.near_down {lo d w k j n e : Nat} (hs : Spread d w k) (hv : lo + d < 256) (hj : j + k = n)
    (hlo : 252 ≤ n * 6 + e) (hhi : n * 6 ≤ 256) : Near (8 + e) (lo + w) (scaledBack lo d (j * 6)) := by
  subst hj
  rw [Nat.add_mul] at hlo hhi
  exact hs.near hv ((Nat.le_add_right ..).trans hhi) (by rw [Nat.mul_comm 6]) hlo (hhi.trans (Nat.le_add_right ..))

/-- The hue rises from the start of its region: what the region's `t` is of. -/
theorem Spread.near_up {lo d w j i : Nat} (hs : Spread d w (j + i)) (hv : lo + d < 256) {e : Nat} (hj : j < 43)
    (hi : 6 * i ≤ 1 + e) : Near (8 + e) (lo + w) (scaledBack lo d (255 - j * 6)) := by
  have hle : j * 6 ≤ 255 := (Nat.mul_le_mul_right 6 (Nat.le_of_lt_succ hj)).trans (by decide)
  have hC : 255 - j * 6 + 6 * (j + i) = 255 + 6 * i := by
    rw [Nat.mul_add, ← Nat.add_assoc, Nat.mul_comm 6 j, Nat.sub_add_cancel hle]
  refine hs.near hv ((Nat.sub_le ..).trans (by decide)) hC ?_ ?_
  · exact Nat.le_add_right_of_le (Nat.le_add_right_of_le (by decide))
  · exact (Nat.add_le_add_left hi 255).trans_eq (Nat.add_assoc 255 1 e).symm

/-- A hue without steps: what the region's `p` is of. -/
theorem Spread.near_mid {lo d w : Nat} (hs : Spread d w 0) (hv : lo + d < 256) : Near 8 (lo + w) (scaledBack lo d 256) :=
  hs.near (e := 0) hv le_rfl rfl (by decide) le_rfl

theorem close_redUp {lo d w k : Nat} (hs : Spread d w k) (hv : lo + d < 256) :
    Rgb.Close ⟨lo + d, lo + w, lo⟩ (sectorRgb k (satOf lo d) (lo + d)) := by
  obtain ⟨h0, h1, -⟩ := sectorRgb_satOf lo d k
  have hlow : Near 16 lo _ := (hs.near_low hv (by decide) le_rfl).mono (by decide)
  obtain hlt | rfl := Nat.lt_or_eq_of_le hs.k_le
  · rw [h0 (Nat.div_eq_of_lt hlt), Nat.mod_eq_of_lt hlt]
    exact ⟨.refl .., hs.near_up (i := 0) (e := 0) hv hlt (by decide), hlow⟩
  · rw [h1 rfl, hs.eq_of_k_eq]
    exact ⟨(near_high hv (by decide)).mono (by decide), .refl .., hlow⟩

theorem close_redDown {lo d w k h : Nat} (hs : Spread d w k) (hv : lo + d < 256)
    (hh : k ≠ 42 ∧ (k = 0 ∧ h = 0 ∨ 0 < k ∧ h + k = 256)) :
    Rgb.Close ⟨lo + d, lo, lo + w⟩ (sectorRgb h (satOf lo d) (lo + d)) := by
  obtain ⟨h0, -, -, -, h4, h5⟩ := sectorRgb_satOf lo d h
  have hlow := hs.near_low hv (by decide) le_rfl
  obtain ⟨hne, ⟨rfl, rfl⟩ | ⟨hpos, hh⟩⟩ := hh
  · rw [h0 rfl]
    exact ⟨.refl .., hs.near_low hv (by decide) (by decide), (hs.near_mid hv).mono (by decide)⟩
  · obtain rfl | hlt := Nat.eq_or_lt_of_le hs.k_le
    · obtain rfl : h = 213 := Nat.add_right_cancel hh
      rw [h4 rfl, hs.eq_of_k_eq]
      exact ⟨(near_high hv (by decide)).mono (by decide), hlow, .refl ..⟩
    · have hk := Nat.le_of_lt_succ (Nat.lt_of_le_of_ne (Nat.le_of_lt_succ hlt) hne)
      obtain ⟨hdiv, hmod⟩ := hue_of_down (r := 5) hh hk (by decide)
      rw [h5 hdiv]
      exact ⟨.refl .., hlow, hs.near_down (e := 8) hv hmod (by decide) (by decide)⟩

theorem close_greenUp {lo d w k : Nat} (hs : Spread d w k) (hv : lo + d < 256) :
    Rgb.Close ⟨lo, lo + d, lo + w⟩ (sectorRgb (85 + k) (satOf lo d) (lo + d)) := by
  obtain ⟨-, h1, h2, -⟩ := sectorRgb_satOf lo d (85 + k)
  cases k with
  | zero =>
    rw [h1 rfl]
    exact ⟨(hs.near_low hv (by decide) (by decide)).mono (by decide), .refl .., (hs.near_mid hv).mono (by decide)⟩
  | succ j =>
    obtain ⟨hdiv, hmod⟩ := hue_of_up (h := 85 + (j + 1)) (r := 2) (Nat.add_right_comm 85 j 1) hs.k_le
    rw [h2 hdiv, hmod]
    exact ⟨(hs.near_low hv (by decide) le_rfl).mono (by decide), .refl .., hs.near_up (e := 8) hv hs.k_le (by decide)⟩

theorem close_greenDown {lo d w k h : Nat} (hs : Spread d w k) (hv : lo + d < 256) (hh : k ≤ 42 ∧ h + k = 85) :
    Rgb.Close ⟨lo + w, lo + d, lo⟩ (sectorRgb h (satOf lo d) (lo + d)) := by
  obtain ⟨-, h1, -⟩ := sectorRgb_satOf lo d h
  obtain ⟨hdiv, hmod⟩ := hue_of_down (r := 1) hh.2 hh.1 (by decide)
  rw [h1 hdiv]
  exact ⟨hs.near_down (e := 8) hv hmod (by decide) (by decide), .refl ..,
    (hs.near_low hv (by decide) le_rfl).mono (by decide)⟩

theorem close_blueUp {lo d w k : Nat} (hs : Spread d w k) (hv : lo + d < 256) :
    Rgb.Close ⟨lo + w, lo, lo + d⟩ (sectorRgb (171 + k) (satOf lo d) (lo + d)) := by
  obtain ⟨-, -, -, h3, h4, -⟩ := sectorRgb_satOf lo d (171 + k)
  cases k with
  | zero =>
    rw [h3 rfl]
    exact ⟨(hs.near_mid hv).mono (by decide), hs.near_low hv (by decide) (by decide), .refl ..⟩
  | succ j =>
    obtain ⟨hdiv, hmod⟩ := hue_of_up (h := 171 + (j + 1)) (r := 4) (Nat.add_right_comm 171 j 1) hs.k_le
    rw [h4 hdiv, hmod]
    exact ⟨hs.near_up (e := 8) hv hs.k_le (by decide), hs.near_low hv (by decide) le_rfl, .refl ..⟩

theorem close_blueDown {lo d w k h : Nat} (hs : Spread d w k) (hv : lo + d < 256) (hh : k ≤ 42 ∧ h + k = 171) :
    Rgb.Close ⟨lo, lo + w, lo + d⟩ (sectorRgb h (satOf lo d) (lo + d)) := by
  obtain ⟨-, -, -, h3, -⟩ := sectorRgb_satOf lo d h
  obtain ⟨hdiv, hmod⟩ := hue_of_down (r := 3) hh.2 hh.1 (by decide)
  rw [h3 hdiv]
  exact ⟨(hs.near_low hv (by decide) le_rfl).mono (by decide), hs.near_down (e := 0) hv hmod (by decide) (by decide),
    .refl ..⟩

/-- In every order the channels come back close (R121). -/
theorem Order.close {o : Order} {lo d w k h : Nat} (hs : Spread d w k) (hv : lo + d < 256) (hh : o.HueAt k h) :
    (o.rgb lo d w).Close (sectorRgb h (satOf lo d) (lo + d)) := by
  cases o with
  | redUp => exact hh ▸ close_redUp hs hv
  | redDown => exact close_redDown hs hv hh
  | greenUp => exact hh ▸ close_greenUp hs hv
  | greenDown => exact close_greenDown hs hv hh
  | blueUp => exact hh.2 ▸ close_blueUp hs hv
  | blueDown => exact close_blueDown hs hv hh

/-! ## The pixel that comes back -/

/-- Channels that are 8 bits wide. -/
def Rgb.Fits (c : Rgb) : Prop := c.r < 256 ∧ c.g < 256 ∧ c.b < 256

theorem sectorRgb_fits (h s : Nat) {v : Nat} (hv : v < 256) : (sectorRgb h s v).Fits := by
  have hdim (k : Nat) : (v * (255 - k)) >>> 8 < 256 :=
    (Nat.shiftRight_eq_div_pow _ 8).trans_lt (dimmed_lt hv k)
  rw [sectorRgb]
  generalize h / 43 = region
  rcases region with _ | _ | _ | _ | _ | _
  · exact ⟨hv, hdim _, hdim _⟩
  · exact ⟨hdim _, hv, hdim _⟩
  · exact ⟨hdim _, hv, hdim _⟩
  · exact ⟨hdim _, hdim _, hv⟩
  · exact ⟨hdim _, hdim _, hv⟩
  · exact ⟨hv, hdim _, hdim _⟩

/-- A pixel that is not gray comes back as channels that are close to its own. -/
theorem exists_close (m : LutMode) (p : Pixel) (hs : (rgb565ToHsv m p).s ≠ 0) :
    ∃ c : Rgb, hsvToRgb565 (rgb565ToHsv m p) = pack c ∧ c.Fits ∧
      (expand m p).Close c := by
  have hmx := expand_mx_lt m p
  have hne : ¬((expand m p).r = (expand m p).g ∧ (expand m p).g = (expand m p).b) := fun heq =>
    hs (((valueAndAchromatic m p).2.2.1).mpr heq)
  obtain ⟨o, lo, d, w, k, hfit, hcs, hspread, hh⟩ := Rgb.exists_hueAt (expand_expanded m p) hne
  obtain ⟨hhi, hlo⟩ := o.mx_mn lo hfit.le
  rw [← hcs] at hhi hlo
  have hv : (rgb565ToHsv m p).v.toNat = lo + d := (Rgb.toHsv_v hmx).trans hhi
  have hsat : (rgb565ToHsv m p).s.toNat = satOf lo d := by
    rw [rgb565ToHsv, Rgb.toHsv_s, hhi, hlo, Nat.add_sub_cancel_left, satOf]
  rw [hhi] at hmx
  refine ⟨_, if_neg hs, ?_, ?_⟩ <;> rw [hv]
  · exact sectorRgb_fits _ _ hmx
  · rw [hsat, hcs]
    exact Order.close hspread hmx hh

/-- Settles O47: the channels that come back are close, and close channels keep their fields within 2. -/
theorem roundTripBound : Obligations.RoundTripBound := by
  refine ⟨fun m p => ⟨hsvToRgb565_rgb565ToHsv_of_achromatic, ?_⟩, by decide⟩
  by_cases hs : (rgb565ToHsv m p).s = 0
  · rw [hsvToRgb565_rgb565ToHsv_of_achromatic hs]
    exact ⟨(Near.refl 2 _).natAbs_le, (Near.refl 2 _).natAbs_le, (Near.refl 2 _).natAbs_le⟩
  · obtain ⟨c, hq, ⟨hr, hg, hb⟩, hclose⟩ := exists_close m p hs
    obtain ⟨hred, hgreen, hblue⟩ := pack_channels hr hg hb
    rw [hq, hred, hgreen, hblue, ← (lut5_top m (red5 p)).1, ← (lut6_top m (green6 p)).1, ← (lut5_top m (blue5 p)).1]
    exact ⟨(hclose.r.field (k := 8) (by decide)).natAbs_le, (hclose.g.field (k := 4) (by decide)).natAbs_le,
      (hclose.b.field (k := 8) (by decide)).natAbs_le⟩

end Sys2Proof.Machine
end
